-- ==== Sys2Proof/Word.lean ====
section
/-! DEFINITION. The engine's data types: bit sequences of any length, the fixed widths of the data path, and the small
named sets (bank, direction, pass) that select among them. Widths: spec/00_scope.md R10, R11, R13. -/

namespace Sys2Proof

/-- A bit sequence of any finite length, bit 1 first (00_scope.md R13): what KEYIN and DIN hold, with its length
(10_state.md R22, R23). -/
abbrev Bits := List Bool

/-- A 64-bit block: DIN when valid, DOUT, B, PRE, OUTV, T (00_scope.md R10 BLOCK_BITS). Bit 1 of the sequence is the most
significant bit of the vector (20_memory.md R52). -/
abbrev Block := BitVec 64

/-- A 64-bit DES key (00_scope.md R10 KEY_BITS). -/
abbrev Key64 := BitVec 64

/-- A 48-bit subkey (00_scope.md R10 SUBKEY_BITS). -/
abbrev Subkey := BitVec 48

/-- L or R, 32 bits (00_scope.md R10 HALF_BITS). -/
abbrev Half := BitVec 32

/-- C or D, 28 bits (00_scope.md R10 KHALF_BITS). -/
abbrev KeyHalf := BitVec 28

/-- The sixteen subkeys K1..K16 of one key, K1 at index 0 (10_state.md R26). -/
abbrev Schedule := Vector Subkey 16

/-- The two subkey banks (00_scope.md R11): bank 0 for key A, bank 1 for key B. -/
inductive Bank where
  | bank0
  | bank1
deriving DecidableEq, Repr, Inhabited

/-- The direction of a DES pass (43_feistel_des.md R145). -/
inductive Dir where
  | enc
  | dec
deriving DecidableEq, Repr, Inhabited

/-- Which pass of a Triple-DES command runs (10_state.md R32, PASS 1..3); `one` in ENC and DEC. -/
inductive PassNo where
  | one
  | two
  | three
deriving DecidableEq, Repr, Inhabited

/-- The three fields of a command word, format CMD8 (30_encoding.md R70): RSV = bits 7:4, BANK = bit 3, OP = bits 2:0. -/
structure Cmd8 where
  rsv  : BitVec 4
  bank : BitVec 1
  op   : BitVec 3
deriving DecidableEq, Repr

end Sys2Proof
end

