-- ==== Sys2Proof/Syntax.lean ====
section
/-! DEFINITION. The command set, one constructor per row of spec/opcode_table.json (30_encoding.md R71). -/

namespace Sys2Proof

/-- The five commands of the engine. Operands are whole registers and are not part of the command (30_encoding.md R75);
the one field a command carries is its subkey bank. -/
inductive Instr where
  /-- EXPAND b (41_key_schedule.md R110). -/
  | expand (b : Bank)
  /-- ENC b (43_feistel_des.md R153). -/
  | enc (b : Bank)
  /-- DEC b (43_feistel_des.md R154). -/
  | dec (b : Bank)
  /-- TENC (44_triple_des.md R165). -/
  | tenc
  /-- TDEC (44_triple_des.md R166). -/
  | tdec
deriving DecidableEq, Repr

end Sys2Proof
end

