-- ==== Sys2Proof/WellFormed.lean ====
section
/-! DEFINITION. When the fields of a command word are those of a command (30_encoding.md R71, R74), and the fields of each
command. `Instr` itself admits no ill-formed term (a bank is one of two, and TENC and TDEC carry none), so the checks are on
the word's fields. -/

namespace Sys2Proof

/-- Why a command word is illegal (30_encoding.md R74), by name. Every one of them is the fault InvalidCommand. -/
inductive Malformed where
  /-- RSV is not 0000. -/
  | reservedNotZero
  /-- OP is 000, 110 or 111. -/
  | unknownOp
  /-- TENC or TDEC with BANK = 1. -/
  | bankNotZero
deriving DecidableEq, Repr

/-- The first check that the fields of a command word fail; none when they are a command's (30_encoding.md R74). -/
def Cmd8.malformed (c : Cmd8) : Option Malformed :=
  if c.rsv ≠ 0 then some .reservedNotZero
  else if c.op = 0 ∨ c.op = 6 ∨ c.op = 7 then some .unknownOp
  else if (c.op = 4 ∨ c.op = 5) ∧ c.bank ≠ 0 then some .bankNotZero
  else none

/-- The fields are a command's. -/
abbrev Cmd8.WellFormed (c : Cmd8) : Prop := c.malformed = none

/-- The BANK bit of a bank. -/
def Bank.bit : Bank → BitVec 1
  | .bank0 => 0
  | .bank1 => 1

/-- The fields of each command (30_encoding.md R71). -/
def Instr.fields : Instr → Cmd8
  | .expand b => { rsv := 0, bank := b.bit, op := 1 }
  | .enc b    => { rsv := 0, bank := b.bit, op := 2 }
  | .dec b    => { rsv := 0, bank := b.bit, op := 3 }
  | .tenc     => { rsv := 0, bank := 0, op := 4 }
  | .tdec     => { rsv := 0, bank := 0, op := 5 }

/-- A command is well-formed when its fields are. -/
abbrev Instr.WellFormed (i : Instr) : Prop := i.fields.WellFormed

end Sys2Proof
end

