-- ==== Sys2Proof/Decode.lean ====
section
/-! DEFINITION. The decoder of command words (30_encoding.md R72), total over all 256 of them and rejecting by name, and the
encoder (30_encoding.md R70, R71, R73). -/

namespace Sys2Proof

/-- The three fields of a command word (30_encoding.md R70). -/
def cmdFields (w : BitVec 8) : Cmd8 :=
  { rsv := w.extractLsb' 4 4, bank := w.extractLsb' 3 1, op := w.extractLsb' 0 3 }

/-- The bank that a BANK bit selects. -/
def bankOfBit (b : Bool) : Bank := if b then .bank1 else .bank0

/-- The whole decoder (30_encoding.md R72). The reason stands for the InvalidCommand the rule answers with. -/
def decode (w : BitVec 8) : Except Malformed Instr :=
  if w.extractLsb' 4 4 ≠ 0 then .error .reservedNotZero
  else
    match (w.extractLsb' 0 3).toNat, bankOfBit (w.getLsbD 3) with
    | 1, b => .ok (.expand b)
    | 2, b => .ok (.enc b)
    | 3, b => .ok (.dec b)
    | 4, .bank0 => .ok .tenc
    | 4, .bank1 => .error .bankNotZero
    | 5, .bank0 => .ok .tdec
    | 5, .bank1 => .error .bankNotZero
    | _, _ => .error .unknownOp

/-- The command word of a command: RSV, BANK and OP side by side, RSV at the top (30_encoding.md R70, R71). -/
def encode (i : Instr) : BitVec 8 := i.fields.rsv ++ i.fields.bank ++ i.fields.op

/-- What the decoder reads from a command word given as a number, bit 0 the least significant. A command word is 8 bits
(30_encoding.md R78), so nothing longer is one. -/
def decodeTableWord (nbits w : Nat) : Option Instr :=
  if nbits ≤ 8 ∧ w < 256 then (decode (BitVec.ofNat 8 w)).toOption else none

end Sys2Proof
end

