-- ==== Sys2Proof/Config.lean ====
section
/-! DEFINITION. What an implementation fixes: the shape of the constant tables' record (10_state.md R35) and the open
parameter OPERAND_MAX_BITS (00_scope.md R12). And the free values: the contents that the working registers are left with when
a command ends, which the spec leaves without a value (93_implementation_defined.md U3). The constants without a body have no
value that Lean can compute or a proof can use. REG_ADDR and LATENCY have no counterpart: no rule depends on them
(20_memory.md R58, 70_reset_and_hazards.md R207). -/

namespace Sys2Proof

/-- The table ROM's contents (20_memory.md R50, R51): permutation tables as lists of source-bit indices, SHIFT as a list of
rotation amounts, S-boxes as box, row, column. Lists, and not vectors of the right length, so that the reset-time shape check
(70_reset_and_hazards.md R202) has something to check. -/
structure Tables where
  ip    : List Nat
  ipinv : List Nat
  e     : List Nat
  p     : List Nat
  pc1   : List Nat
  pc2   : List Nat
  shift : List Nat
  sbox  : List (List (List Nat))
deriving DecidableEq, Repr

namespace Config

/-- How many bits beyond 128 the host can load into an operand register. Unknown: assumption 4. -/
opaque operandSpareBits : Nat

/-- OPERAND_MAX_BITS, at least 128 (00_scope.md R12, 92_eei_decisions.md D2). -/
def operandMaxBits : Nat := 128 + operandSpareBits

/-! The free values of the working registers after the `n`-th command that completed (assumption 2). -/

/-- C and D. -/
opaque freeC : Nat → KeyHalf
opaque freeD : Nat → KeyHalf
/-- KN, which keeps its range 0..16. -/
opaque freeKN : Nat → Fin 17
/-- The key latched at KsInit and the subkeys held until KsDone. -/
opaque freeKeyLatch : Nat → Key64
opaque freeHeld : Nat → Schedule
/-- L and R. -/
opaque freeL : Nat → Half
opaque freeR : Nat → Half
/-- RN, which keeps its range 0..16. -/
opaque freeRN : Nat → Fin 17
/-- B, PRE, OUTV and T. -/
opaque freeB : Nat → Block
opaque freePre : Nat → Block
opaque freeOutv : Nat → Block
opaque freeT : Nat → Block
/-- PASS, DIR and KB, which keep their ranges. -/
opaque freePass : Nat → PassNo
opaque freeDir : Nat → Dir
opaque freeKB : Nat → Bank

end Config
end Sys2Proof
end

