-- ==== Sys2Proof/Machine/Bits.lean ====
section
/-! DEFINITION. The micro-operations on bit sequences that hold no state: numbering, slices, rotation, split, permutation
(00_scope.md R13 to R16, 20_memory.md R52, 40_permute_bitvector.md R90 to R95). Exclusive-or is `^^^` and joining is `++`. -/

namespace Sys2Proof.Machine

/-- `val(s)`, the unsigned value of a sequence, its first bit the most significant (00_scope.md R15). -/
def bitsValue (l : Bits) : Nat := l.foldl (fun v b => 2 * v + b.toNat) 0

/-- A sequence as the vector of its width: the first bit of the sequence is the most significant one (00_scope.md R15,
20_memory.md R52). -/
def ofBits (w : Nat) (l : Bits) : BitVec w := BitVec.ofNat w (bitsValue l)

/-- The sequence of a fixed-width vector, bit 1 first. -/
def toBits {w : Nat} (x : BitVec w) : Bits := (List.range w).map fun i => x.getMsbD i

/-- `s{i}`, the i-th bit, counted from 1 (00_scope.md R13). -/
def bit {n : Nat} (x : BitVec n) (i : Nat) : Bool := x.getMsbD (i - 1)

/-- `s{i..i+w-1}`, the `w` bits from bit `i` on, in the same order (00_scope.md R13). -/
def slice {n : Nat} (x : BitVec n) (i w : Nat) : BitVec w := x.extractLsb' (n + 1 - i - w) w

/-- `rotl(x, k)` (40_permute_bitvector.md R94). -/
def rotl {n : Nat} (x : BitVec n) (k : Nat) : BitVec n := x.rotateLeft k

/-- `split(x)` into a first and a second half of `h` bits (40_permute_bitvector.md R95). -/
def split {n : Nat} (h : Nat) (x : BitVec n) : BitVec h × BitVec h := (slice x 1 h, slice x (h + 1) h)

/-- `permute(x, T)` as the data path does it, to a result of `m` bits: `y{i} = x{T{i}}` (40_permute_bitvector.md R90). No
index is checked per call: the shapes were checked at reset (40_permute_bitvector.md R91, 60_exceptions.md R179). -/
def permute {n : Nat} (m : Nat) (t : List Nat) (x : BitVec n) : BitVec m := ofBits m (t.map (bit x))

/-- Every entry of a table selects a bit of an `n`-bit input: it lies in 1..n (40_permute_bitvector.md R91, R104). -/
def entriesInRange (n : Nat) (t : List Nat) : Bool := t.all fun i => decide (1 ≤ i) && decide (i ≤ n)

/-- The sequence of a hexadecimal string, 4 bits per digit, most significant first (00_scope.md R16). -/
def bitsOfHex (digits : List (BitVec 4)) : Bits := digits.flatMap toBits

/-- The sequence of an operand given as bytes: byte order big-endian, in a byte the 0x80 bit first (20_memory.md R52). -/
def bitsOfBytes (bytes : List (BitVec 8)) : Bits := bytes.flatMap toBits

end Sys2Proof.Machine
end

