-- ==== Sys2Proof/Machine/State.lean ====
section
/-! DEFINITION. The state of one engine (10_state.md R20), as plain data, and the state after reset (10_state.md R39,
70_reset_and_hazards.md R200). The three fields at the end are the model's own: the host's actions still to come, the answer
to the host's latest action, and the index of the next free values. -/

namespace Sys2Proof.Machine

/-- The operand a width fault names (60_exceptions.md R177). -/
inductive Argument where
  /-- KEYIN. -/
  | key
  /-- DIN. -/
  | block
deriving DecidableEq, Repr

/-- The four faults of the engine (60_exceptions.md R175, R177). The spec says what each does (60_exceptions.md R183): the
command makes none of its writes, ERR, ES and OV change, and the engine goes on. So a fault is TAKEN as a next state, by
`raise` in Machine/Ops.lean, and no step of this model ends in one: safe, since it is the spec's own effect. -/
inductive Fault where
  /-- InvalidInputLength: raised by EXPAND, TENC, TDEC for the key and by ENC, DEC, TENC, TDEC for the block, when the operand
  register has not exactly the required width (60_exceptions.md R178). Safe: taken as the spec says. -/
  | invalidInputLength (a : Argument)
  /-- InvalidTableIndex: raised by every legal command while TF = 1 (60_exceptions.md R179), and the answer of the checked
  micro-operation `permute` (40_permute_bitvector.md R91). Safe: taken as the spec says. -/
  | invalidTableIndex
  /-- KeyNotLoaded: raised by ENC b and DEC b when bank b holds no schedule (60_exceptions.md R180). Safe: taken as the spec
  says. -/
  | keyNotLoaded (b : Bank)
  /-- InvalidCommand: raised by a write of an illegal command word (60_exceptions.md R181). Safe: taken as the spec says. -/
  | invalidCommand
deriving DecidableEq, Repr

/-- Why a step could have no meaning. No step of this model is refused: every command has its meaning. A host read that the
spec refuses is no such stop: the engine goes on, and the host's answer is `Reply.refused` (60_exceptions.md R185). -/
inductive Refusal where
  /-- Raised by an arm of `exec` that has no meaning yet; there is none. Safe: nothing can be proved of such a step. -/
  | notModelled (mnemonic : String)
deriving DecidableEq, Repr

/-- The phases of the sequencer SEQ (10_state.md R33): the key schedule's (41_key_schedule.md R114) and a pass's
(43_feistel_des.md R146). A phase is named for what is complete when it is entered (90_conflicts.md C2). -/
inductive Phase where
  | idle
  | ksInit
  | ksPc1Applied
  | ksRound (n : Nat)
  | ksDone
  | init
  | ipApplied
  | round (n : Nat)
  | swapped
  | ipInvApplied
  | done
deriving DecidableEq, Repr

/-- The internal working registers (10_state.md R30 to R32). No host action reads them, and every command writes them before
it reads them (10_state.md R34). -/
structure Work where
  /-- C and D, the key state, and KN, its round counter (10_state.md R30). -/
  c : KeyHalf
  d : KeyHalf
  kn : Fin 17
  /-- The key latched at KsInit, and the subkeys held from KsRound(n) until KsDone writes them to the bank: registers that
  41_key_schedule.md R114 implies and does not name. DEDUCED, assumption 5. -/
  keyLatch : Key64
  held : Schedule
  /-- L and R, the cipher state, and RN, its round counter (10_state.md R31). -/
  l : Half
  r : Half
  rn : Fin 17
  /-- B, PRE, OUTV, T, PASS, DIR, KB (10_state.md R32). -/
  b : Block
  pre : Block
  outv : Block
  t : Block
  pass : PassNo
  dir : Dir
  kb : Bank
deriving DecidableEq, Repr

/-- The actions by which the host touches the engine: the seven of 10_state.md R38, and a read of CMD, which
60_exceptions.md R185 lists among the refused reads. -/
inductive HostAction where
  | reset
  | writeKey (s : Bits)
  | writeBlock (s : Bits)
  | writeCmd (w : BitVec 8)
  | readStatus
  | readOut
  | readSubkey (b n : Nat)
  | readCmd
deriving DecidableEq, Repr

/-- What the host's latest action returned to it. -/
inductive Reply where
  /-- Nothing: the action returns no value, or there was none yet. -/
  | silent
  /-- STATUS (10_state.md R28). -/
  | status (w : BitVec 8)
  /-- DOUT (10_state.md R25). -/
  | block (v : Block)
  /-- A subkey (10_state.md R26). -/
  | subkey (k : Subkey)
  /-- The action was refused: no value, nothing changed (60_exceptions.md R185, 93_implementation_defined.md U1, U2, U4). -/
  | refused
deriving DecidableEq, Repr

/-- The state of one engine instance (10_state.md R20, R21). The tables are no part of it (10_state.md R35), CMD is not held
(10_state.md R24), and STATUS is a view (10_state.md R28; `statusWord`, Machine/Flags.lean). -/
structure State where
  /-- KEYIN, the key operand register, with its length (10_state.md R22). -/
  keyin : Bits
  /-- DIN, the block operand register, with its length (10_state.md R23). -/
  din : Bits
  /-- DOUT, the result register; it holds a value only while OV = 1 (10_state.md R25). -/
  dout : Block
  /-- OV: DOUT holds a result (10_state.md R28). -/
  ov : Bool
  /-- KS[0] and KS[1], the subkey banks; each holds a value only while its KV is 1 (10_state.md R26, R27). -/
  ks0 : Schedule
  ks1 : Schedule
  /-- KV[0] and KV[1]: the bank holds a key schedule (10_state.md R28). -/
  kv0 : Bool
  kv1 : Bool
  /-- ERR: the fault code of the most recent command (10_state.md R28). -/
  err : BitVec 3
  /-- ES: some command faulted since reset (10_state.md R28). -/
  es : Bool
  /-- TF: the table-shape check at reset failed (10_state.md R28). -/
  tf : Bool
  /-- SEQ, the sequencer phase (10_state.md R33). -/
  seq : Phase
  /-- C, D, KN, L, R, RN, B, PRE, OUTV, T, PASS, DIR, KB (10_state.md R30 to R32). -/
  work : Work
  /-- The model's own: how many commands have left free values in the working registers. DESIGN CHOICE, assumption 2. -/
  fresh : Nat
  /-- The model's own: the host's actions that the engine has not taken yet, the next one first (20_memory.md R59). DESIGN
  CHOICE, assumption 1. -/
  inbox : List HostAction
  /-- The model's own: what the host's latest action returned. DESIGN CHOICE, assumption 1. -/
  reply : Reply
deriving DecidableEq, Repr

/-- The working registers after reset. The spec leaves them without a value; the model names zero (and the first of each
set). DESIGN CHOICE, assumption 3. -/
def Work.reset : Work where
  c := 0
  d := 0
  kn := 0
  keyLatch := 0
  held := Vector.replicate 16 0
  l := 0
  r := 0
  rn := 0
  b := 0
  pre := 0
  outv := 0
  t := 0
  pass := .one
  dir := .enc
  kb := .bank0

/-- The state after reset (10_state.md R39, 70_reset_and_hazards.md R200). DOUT and the banks hold no value then: what stands
in the three fields is the model's, behind OV = 0 and KV = 0. DESIGN CHOICE, assumption 3. -/
def State.reset : State where
  keyin := []
  din := []
  dout := 0
  ov := false
  ks0 := Vector.replicate 16 0
  ks1 := Vector.replicate 16 0
  kv0 := false
  kv1 := false
  err := 0
  es := false
  tf := tableFault tables
  seq := .idle
  work := Work.reset
  fresh := 0
  inbox := []
  reply := .silent

end Sys2Proof.Machine
end

