-- ==== Sys2Proof/Machine/Flags.lean ====
section
/-! DEFINITION. The flags: fault codes and the STATUS word (10_state.md R28, R29, 60_exceptions.md R177). -/

namespace Sys2Proof.Machine

/-- The code a fault writes to ERR (60_exceptions.md R177). -/
def faultCode : Fault → BitVec 3
  | .invalidInputLength .key   => 1
  | .invalidInputLength .block => 2
  | .invalidTableIndex         => 3
  | .keyNotLoaded _            => 4
  | .invalidCommand            => 5

/-- STATUS: TF, ERR, ES, OV, KV1, KV0 from bit 7 down to bit 0 (10_state.md R28). -/
def statusWord (s : State) : BitVec 8 :=
  BitVec.ofBool s.tf ++ s.err ++ BitVec.ofBool s.es ++ BitVec.ofBool s.ov ++ BitVec.ofBool s.kv1 ++ BitVec.ofBool s.kv0

end Sys2Proof.Machine
end

