-- ==== Sys2Proof/Machine/Ops.lean ====
section
/-! DEFINITION. The named operations over the registers: the banks, the result, the end of a command, and taking a fault. The
engine has no return from a fault: nothing is saved and nothing is restored (60_exceptions.md R184). It has no memory either
(20_memory.md R50): the table ROM is read in Machine/Tables.lean. -/

namespace Sys2Proof.Machine

/-- The subkeys in bank `b` (10_state.md R26). -/
def bankKeys (b : Bank) (s : State) : Schedule :=
  match b with
  | .bank0 => s.ks0
  | .bank1 => s.ks1

/-- KV[b] (10_state.md R26). -/
def bankValid (b : Bank) (s : State) : Bool :=
  match b with
  | .bank0 => s.kv0
  | .bank1 => s.kv1

/-- Write a whole schedule to bank `b`: all sixteen entries and KV[b] together (10_state.md R26). -/
def loadBank (b : Bank) (ks : Schedule) (s : State) : State :=
  match b with
  | .bank0 => { s with ks0 := ks, kv0 := true }
  | .bank1 => { s with ks1 := ks, kv1 := true }

/-- `Kn` of a schedule, `n` counted from 1 (10_state.md R26). -/
def subkeyAt (ks : Schedule) (n : Nat) : Subkey := ks[n - 1]?.getD 0

/-- The contents the working registers are left with by the `n`-th command that completed: free values
(93_implementation_defined.md U3, assumption 2). -/
def freeWork (n : Nat) : Work where
  c := Config.freeC n
  d := Config.freeD n
  kn := Config.freeKN n
  keyLatch := Config.freeKeyLatch n
  held := Config.freeHeld n
  l := Config.freeL n
  r := Config.freeR n
  rn := Config.freeRN n
  b := Config.freeB n
  pre := Config.freePre n
  outv := Config.freeOutv n
  t := Config.freeT n
  pass := Config.freePass n
  dir := Config.freeDir n
  kb := Config.freeKB n

/-- The successful end of a command: ERR is written 0 (10_state.md R28), SEQ goes to Idle, and the working registers hold no
value any more (10_state.md R34). -/
def retire (s : State) : State :=
  { s with err := 0, seq := .idle, work := freeWork s.fresh, fresh := s.fresh + 1 }

/-- Taking a fault, the one operation for all four (60_exceptions.md R183): ERR, ES, OV and SEQ are written and nothing else.
There is no saved state, no handler and no mode. -/
def raise (f : Fault) (s : State) : State :=
  { s with err := faultCode f, es := true, ov := false, seq := .idle }

/-- `permute(x, T)` with the check of the whole table before any output bit (40_permute_bitvector.md R90, R91). The data path
uses `permute`: in the hardware the check is made once, at reset. -/
def permuteChecked {n : Nat} (x : BitVec n) (t : List Nat) : Except Fault (BitVec t.length) :=
  if entriesInRange n t then .ok (permute t.length t x) else .error .invalidTableIndex

end Sys2Proof.Machine
end

