-- ==== Sys2Proof/Machine/Cipher.lean ====
section
/-! DEFINITION. The cipher as pure functions of their operands and the tables: the round function (42_round_function.md), the
key schedule `expand` (41_key_schedule.md R115), one pass `desPass` (43_feistel_des.md R155) and the compositions
`encrypt3` and `decrypt3` (44_triple_des.md R165, R166). The commands run the phases of Machine/Sequencer.lean, of which
`roundF` is a step; the spec says the two forms agree (10_state.md R34). -/

namespace Sys2Proof.Machine

/-- `sbox(j, g)` (42_round_function.md R128): the outer bits choose the row, the inner four the column. -/
def sbox (T : Tables) (j : Nat) (g : BitVec 6) : BitVec 4 :=
  BitVec.ofNat 4 (memReadS T j (2 * (bit g 1).toNat + (bit g 6).toNat) (slice g 2 4).toNat)

/-- Group `j` of the S-box input, bits 6j-5 to 6j (42_round_function.md R127). -/
def sboxGroup (x : BitVec 48) (j : Nat) : BitVec 6 := slice x (6 * j - 5) 6

/-- The eight S-box outputs joined, that of S-box 1 first (42_round_function.md R127 to R129). -/
def sboxLayer (T : Tables) (x : BitVec 48) : Half :=
  sbox T 1 (sboxGroup x 1) ++ sbox T 2 (sboxGroup x 2) ++ sbox T 3 (sboxGroup x 3) ++ sbox T 4 (sboxGroup x 4) ++
  sbox T 5 (sboxGroup x 5) ++ sbox T 6 (sboxGroup x 6) ++ sbox T 7 (sboxGroup x 7) ++ sbox T 8 (sboxGroup x 8)

/-- `F(r, k)`: expand by E, mix with the subkey, S-boxes, P (42_round_function.md R125, R126, R138). -/
def roundF (T : Tables) (r : Half) (k : Subkey) : Half :=
  permute 32 T.p (sboxLayer T (permute 48 T.e r ^^^ k))

/-- `(Cn, Dn)`: PC1 and split for n = 0 (41_key_schedule.md R111), then round n's rotation of both halves of round n-1's
state (41_key_schedule.md R112). -/
def keyState (T : Tables) (key : Key64) : Nat → KeyHalf × KeyHalf
  | 0 => split 28 (permute 56 T.pc1 key)
  | n + 1 =>
    let cd := keyState T key n
    (rotl cd.1 (memRead T.shift (n + 1)), rotl cd.2 (memRead T.shift (n + 1)))

/-- `Kn = permute(Cn ‖ Dn, PC2)` (41_key_schedule.md R113). -/
def roundKey (T : Tables) (key : Key64) (n : Nat) : Subkey :=
  permute 48 T.pc2 ((keyState T key n).1 ++ (keyState T key n).2)

/-- `expand(key) = (K1, ..., K16)` (41_key_schedule.md R115). -/
def expand (T : Tables) (key : Key64) : Schedule := Vector.ofFn fun i => roundKey T key (i.val + 1)

/-- The subkey that round `n` uses: Kn, or K(17-n) in direction `dec` (43_feistel_des.md R149). -/
def selectKey (ks : Schedule) (dir : Dir) (n : Nat) : Subkey :=
  match dir with
  | .enc => subkeyAt ks n
  | .dec => subkeyAt ks (17 - n)

/-- One round: `(L, R)` becomes `(R, L xor F(R, k))`, both from the old pair (43_feistel_des.md R148). -/
def feistelRound (T : Tables) (k : Subkey) (lr : Half × Half) : Half × Half := (lr.2, lr.1 ^^^ roundF T lr.2 k)

/-- `(Ln, Rn)`: the halves after `n` rounds from `(L0, R0)` (43_feistel_des.md R148). -/
def feistel (T : Tables) (ks : Schedule) (dir : Dir) (lr : Half × Half) : Nat → Half × Half
  | 0 => lr
  | n + 1 => feistelRound T (selectKey ks dir (n + 1)) (feistel T ks dir lr n)

/-- `des_pass(block, (K1..K16), dir)` (43_feistel_des.md R155): IP and split, sixteen rounds, the right half in front,
IPINV. -/
def desPass (T : Tables) (block : Block) (ks : Schedule) (dir : Dir) : Block :=
  let lr := feistel T ks dir (split 32 (permute 64 T.ip block)) 16
  permute 64 T.ipinv (lr.2 ++ lr.1)

/-- `encrypt3(block, keyA, keyB)`: encrypt with A, decrypt with B, encrypt with A (44_triple_des.md R165). -/
def encrypt3 (T : Tables) (block : Block) (keyA keyB : Key64) : Block :=
  desPass T (desPass T (desPass T block (expand T keyA) .enc) (expand T keyB) .dec) (expand T keyA) .enc

/-- `decrypt3(block, keyA, keyB)`: decrypt with A, encrypt with B, decrypt with A (44_triple_des.md R166). -/
def decrypt3 (T : Tables) (block : Block) (keyA keyB : Key64) : Block :=
  desPass T (desPass T (desPass T block (expand T keyA) .dec) (expand T keyB) .enc) (expand T keyA) .dec

end Sys2Proof.Machine
end

