-- ==== Sys2Proof/Machine/Operands.lean ====
section
/-! DEFINITION. The operand forms (30_encoding.md R75) and the checks made of them before the first phase
(60_exceptions.md R178 to R182). -/

namespace Sys2Proof.Machine

/-- Where a key schedule takes its 64-bit key from. -/
inductive KeySource where
  /-- `key64`: all of KEYIN, in EXPAND. -/
  | whole
  /-- `keyA` = KEYIN{1..64}, in TENC and TDEC (20_memory.md R53). -/
  | keyA
  /-- `keyB` = KEYIN{65..128}, in TENC and TDEC (20_memory.md R53). -/
  | keyB
deriving DecidableEq, Repr

/-- Where a pass takes its block from: DIN, or T, the result of the pass before it (44_triple_des.md R168). -/
inductive BlockSource where
  | din
  | t
deriving DecidableEq, Repr

/-- The key operand. It is taken only when KEYIN has the width the command needs. -/
def keyFrom (src : KeySource) (s : State) : Key64 :=
  match src with
  | .whole => ofBits 64 s.keyin
  | .keyA  => ofBits 64 (s.keyin.take 64)
  | .keyB  => ofBits 64 (s.keyin.drop 64)

/-- The block operand. DIN is taken only when it is 64 bits. -/
def blockFrom (src : BlockSource) (s : State) : Block :=
  match src with
  | .din => ofBits 64 s.din
  | .t   => s.work.t

/-- Check (2): the tables (60_exceptions.md R179). -/
def checkTables (s : State) : Option Fault := if s.tf then some .invalidTableIndex else none

/-- Check (3): KEYIN is exactly `n` bits (60_exceptions.md R178). -/
def checkKey (n : Nat) (s : State) : Option Fault :=
  if s.keyin.length = n then none else some (.invalidInputLength .key)

/-- Check (4): DIN is exactly 64 bits (60_exceptions.md R178). -/
def checkBlock (s : State) : Option Fault :=
  if s.din.length = 64 then none else some (.invalidInputLength .block)

/-- Check (5): bank `b` holds a schedule (60_exceptions.md R180). -/
def checkBank (b : Bank) (s : State) : Option Fault :=
  if bankValid b s then none else some (.keyNotLoaded b)

/-- The first check that fails decides the fault (60_exceptions.md R182). -/
def firstFault (checks : List (Option Fault)) : Option Fault := checks.findSome? id

end Sys2Proof.Machine
end

