-- ==== Sys2Proof/Machine/Sequencer.lean ====
section
/-! DEFINITION. The sequencer (10_state.md R33): the transitions into each phase, as writes of the working registers, and the
fixed path of transitions that each command walks (41_key_schedule.md R111 to R114, 43_feistel_des.md R146 to R152,
44_triple_des.md R168). -/

namespace Sys2Proof.Machine

/-- A transition of the sequencer, named for the phase it enters. What it carries is fixed by the command alone. -/
inductive Transition where
  | ksInit (src : KeySource)
  | ksPc1Applied
  | ksRound (n : Nat)
  | ksDone (b : Bank)
  | init (pass : PassNo) (kb : Bank) (dir : Dir) (src : BlockSource)
  | ipApplied
  | round (n : Nat)
  | swapped
  | ipInvApplied
  /-- Done of a pass whose result goes to T: passes 1 and 2 of TENC and TDEC. -/
  | doneToT
  /-- Done of a pass whose result goes to DOUT: ENC, DEC, and pass 3 of TENC and TDEC. -/
  | doneToDout
deriving DecidableEq, Repr

/-- The phase a transition enters. -/
def Transition.phase : Transition → Phase
  | .ksInit _       => .ksInit
  | .ksPc1Applied   => .ksPc1Applied
  | .ksRound n      => .ksRound n
  | .ksDone _       => .ksDone
  | .init _ _ _ _   => .init
  | .ipApplied      => .ipApplied
  | .round n        => .round n
  | .swapped        => .swapped
  | .ipInvApplied   => .ipInvApplied
  | .doneToT        => .done
  | .doneToDout     => .done

/-- Into KsInit: the key is latched (41_key_schedule.md R114). -/
def enterKsInit (src : KeySource) (s : State) : State :=
  { s with work := { s.work with keyLatch := keyFrom src s }, seq := .ksInit }

/-- Into KsPc1Applied: PC1 and split into C0 and D0 (41_key_schedule.md R111). -/
def enterKsPc1Applied (T : Tables) (s : State) : State :=
  let cd := split 28 (permute 56 T.pc1 s.work.keyLatch)
  { s with work := { s.work with c := cd.1, d := cd.2, kn := 0 }, seq := .ksPc1Applied }

/-- Into KsRound(n): rotate C and D (41_key_schedule.md R112), then PC2 gives Kn, which is held (41_key_schedule.md R113,
R114). -/
def enterKsRound (T : Tables) (n : Nat) (s : State) : State :=
  let c := rotl s.work.c (memRead T.shift n)
  let d := rotl s.work.d (memRead T.shift n)
  { s with
    work := { s.work with
      c := c, d := d, kn := Fin.ofNat 17 n, held := s.work.held.setIfInBounds (n - 1) (permute 48 T.pc2 (c ++ d)) }
    seq := .ksRound n }

/-- Into KsDone: the sixteen subkeys are written to the bank in one step (41_key_schedule.md R114). -/
def enterKsDone (b : Bank) (s : State) : State :=
  { loadBank b s.work.held s with seq := .ksDone }

/-- Into Init: the block is latched in B, and the pass is set up (43_feistel_des.md R146, 44_triple_des.md R168). -/
def enterInit (pass : PassNo) (kb : Bank) (dir : Dir) (src : BlockSource) (s : State) : State :=
  { s with work := { s.work with b := blockFrom src s, pass := pass, kb := kb, dir := dir }, seq := .init }

/-- Into IPApplied: IP and split into L0 and R0 (43_feistel_des.md R147). -/
def enterIpApplied (T : Tables) (s : State) : State :=
  let lr := split 32 (permute 64 T.ip s.work.b)
  { s with work := { s.work with l := lr.1, r := lr.2, rn := 0 }, seq := .ipApplied }

/-- Into Round(n): one round with the subkey of bank KB that direction DIR selects, both halves written together
(43_feistel_des.md R148, R149). -/
def enterRound (T : Tables) (n : Nat) (s : State) : State :=
  let lr := feistelRound T (selectKey (bankKeys s.work.kb s) s.work.dir n) (s.work.l, s.work.r)
  { s with work := { s.work with l := lr.1, r := lr.2, rn := Fin.ofNat 17 n }, seq := .round n }

/-- Into Swapped: the preoutput, the right half in front (43_feistel_des.md R150). -/
def enterSwapped (s : State) : State :=
  { s with work := { s.work with pre := s.work.r ++ s.work.l }, seq := .swapped }

/-- Into IPInvApplied (43_feistel_des.md R151). -/
def enterIpInvApplied (T : Tables) (s : State) : State :=
  { s with work := { s.work with outv := permute 64 T.ipinv s.work.pre }, seq := .ipInvApplied }

/-- Into Done, the result handed to T: nothing the host sees changes (43_feistel_des.md R152). -/
def enterDoneToT (s : State) : State :=
  { s with work := { s.work with t := s.work.outv }, seq := .done }

/-- Into Done, the result handed to DOUT: DOUT, OV and ERR in one step (43_feistel_des.md R152). -/
def enterDoneToDout (s : State) : State :=
  { s with dout := s.work.outv, ov := true, err := 0, seq := .done }

/-- One transition. -/
def enter (T : Tables) (t : Transition) (s : State) : State :=
  match t with
  | .ksInit src            => enterKsInit src s
  | .ksPc1Applied          => enterKsPc1Applied T s
  | .ksRound n             => enterKsRound T n s
  | .ksDone b              => enterKsDone b s
  | .init pass kb dir src  => enterInit pass kb dir src s
  | .ipApplied             => enterIpApplied T s
  | .round n               => enterRound T n s
  | .swapped               => enterSwapped s
  | .ipInvApplied          => enterIpInvApplied T s
  | .doneToT               => enterDoneToT s
  | .doneToDout            => enterDoneToDout s

/-- The transitions of a path, one after the other. -/
def runPath (T : Tables) (path : List Transition) (s : State) : State := path.foldl (fun s t => enter T t s) s

/-- The round numbers 1 to 16, in order. -/
def rounds : List Nat := [1, 2, 3, 4, 5, 6, 7, 8, 9, 10, 11, 12, 13, 14, 15, 16]

/-- The path of one key schedule (41_key_schedule.md R114). -/
def schedulePath (b : Bank) (src : KeySource) : List Transition :=
  [.ksInit src, .ksPc1Applied] ++ rounds.map .ksRound ++ [.ksDone b]

/-- The path of one pass up to IPInvApplied (43_feistel_des.md R146); Done follows it. -/
def passPath (pass : PassNo) (kb : Bank) (dir : Dir) (src : BlockSource) : List Transition :=
  [.init pass kb dir src, .ipApplied] ++ rounds.map .round ++ [.swapped, .ipInvApplied]

/-- The three passes of a Triple-DES command in the directions `outer`, `inner`, `outer` (44_triple_des.md R168). -/
def threePasses (outer inner : Dir) : List Transition :=
  passPath .one .bank0 outer .din ++ [.doneToT] ++
  passPath .two .bank1 inner .t ++ [.doneToT] ++
  passPath .three .bank0 outer .t ++ [.doneToDout]

/-- The path of each command, which depends on the command alone (10_state.md R33). -/
def commandPath : Instr → List Transition
  | .expand b => schedulePath b .whole
  | .enc b    => passPath .one b .enc .din ++ [.doneToDout]
  | .dec b    => passPath .one b .dec .din ++ [.doneToDout]
  | .tenc     => schedulePath .bank0 .keyA ++ schedulePath .bank1 .keyB ++ threePasses .enc .dec
  | .tdec     => schedulePath .bank0 .keyA ++ schedulePath .bank1 .keyB ++ threePasses .dec .enc

/-- The shape of every command: the checks in their order, all before the first phase (60_exceptions.md R182); the first that
fails is the fault taken; if none does, the path is walked and the command ends. -/
def runCommand (checks : List (Option Fault)) (path : List Transition) (s : State) :
    Host.Outcome State Fault Refusal :=
  match firstFault checks with
  | some f => .next (raise f s)
  | none   => .next (retire (runPath tables path s))

end Sys2Proof.Machine
end

