-- ==== Sys2Proof/Machine/KeySchedule.lean ====
section
/-! DEFINITION. The command of the key-schedule unit (41_key_schedule.md). -/

namespace Sys2Proof.Machine

/-- EXPAND b (41_key_schedule.md R110). -/
def execExpand (b : Bank) (s : State) : Host.Outcome State Fault Refusal :=
  runCommand [checkTables s, checkKey 64 s] (commandPath (.expand b)) s

end Sys2Proof.Machine
end

