-- ==== Sys2Proof/Machine/SingleDes.lean ====
section
/-! DEFINITION. The single-DES block commands (43_feistel_des.md). -/

namespace Sys2Proof.Machine

/-- ENC b (43_feistel_des.md R153). -/
def execEnc (b : Bank) (s : State) : Host.Outcome State Fault Refusal :=
  runCommand [checkTables s, checkBlock s, checkBank b s] (commandPath (.enc b)) s

/-- DEC b (43_feistel_des.md R154). -/
def execDec (b : Bank) (s : State) : Host.Outcome State Fault Refusal :=
  runCommand [checkTables s, checkBlock s, checkBank b s] (commandPath (.dec b)) s

end Sys2Proof.Machine
end

