-- ==== Sys2Proof/Machine/TripleDes.lean ====
section
/-! DEFINITION. The Triple-DES commands (44_triple_des.md). -/

namespace Sys2Proof.Machine

/-- TENC (44_triple_des.md R165). -/
def execTenc (s : State) : Host.Outcome State Fault Refusal :=
  runCommand [checkTables s, checkKey 128 s, checkBlock s] (commandPath .tenc) s

/-- TDEC (44_triple_des.md R166). -/
def execTdec (s : State) : Host.Outcome State Fault Refusal :=
  runCommand [checkTables s, checkKey 128 s, checkBlock s] (commandPath .tdec) s

end Sys2Proof.Machine
end

