-- ==== Sys2Proof/Machine/Dispatch.lean ====
section
/-! DEFINITION. One arm per command. -/

namespace Sys2Proof.Machine

def exec (i : Instr) (s : State) : Host.Outcome State Fault Refusal :=
  match i with
  | .expand b => Sys2Proof.Machine.execExpand b s
  | .enc b => Sys2Proof.Machine.execEnc b s
  | .dec b => Sys2Proof.Machine.execDec b s
  | .tenc => Sys2Proof.Machine.execTenc s
  | .tdec => Sys2Proof.Machine.execTdec s

end Sys2Proof.Machine
end

