-- ==== Sys2Proof/Machine/HostPort.lean ====
section
/-! DEFINITION. The host actions (10_state.md R38) and the pseudo-instructions made of them (30_encoding.md R80). -/

namespace Sys2Proof.Machine

/-- `Reset` (70_reset_and_hazards.md R200, R201). What is the model's own goes on: the host's later actions, and the count of
free values, so that none is used twice. -/
def resetEngine (s : State) : State := { State.reset with fresh := s.fresh, inbox := s.inbox }

/-- `WriteKey(s)` (10_state.md R22); beyond OPERAND_MAX_BITS it is refused (93_implementation_defined.md U4). -/
def writeKey (bits : Bits) (s : State) : State :=
  if bits.length ≤ Config.operandMaxBits then { s with keyin := bits } else { s with reply := .refused }

/-- `WriteBlock(s)` (10_state.md R23); beyond OPERAND_MAX_BITS it is refused (93_implementation_defined.md U4). -/
def writeBlock (bits : Bits) (s : State) : State :=
  if bits.length ≤ Config.operandMaxBits then { s with din := bits } else { s with reply := .refused }

/-- `WriteCmd(w)` (10_state.md R24): the command is executed to its end, and an illegal word is InvalidCommand
(60_exceptions.md R181). -/
def writeCmd (w : BitVec 8) (s : State) : Host.Outcome State Fault Refusal :=
  match decode w with
  | .ok i    => exec i s
  | .error _ => .next (raise .invalidCommand s)

/-- What `ReadOut` answers (10_state.md R25). -/
def outReply (s : State) : Reply := if s.ov then .block s.dout else .refused

/-- The bank that the number of a `ReadSubkey` names, if any. -/
def bankOfNumber : Nat → Option Bank
  | 0 => some .bank0
  | 1 => some .bank1
  | _ => none

/-- What `ReadSubkey(b, n)` answers (10_state.md R26, R38). -/
def subkeyReply (b n : Nat) (s : State) : Reply :=
  match bankOfNumber b with
  | some bk => if bankValid bk s ∧ 1 ≤ n ∧ n ≤ 16 then .subkey (subkeyAt (bankKeys bk s) n) else .refused
  | none    => .refused

/-- One host action, taken to its end (10_state.md R38, 20_memory.md R59). -/
def perform (a : HostAction) (s : State) : Host.Outcome State Fault Refusal :=
  match a with
  | .reset          => .next (resetEngine s)
  | .writeKey bits  => .next (writeKey bits s)
  | .writeBlock bits => .next (writeBlock bits s)
  | .writeCmd w     => writeCmd w s
  | .readStatus     => .next { s with reply := .status (statusWord s) }
  | .readOut        => .next { s with reply := outReply s }
  | .readSubkey b n => .next { s with reply := subkeyReply b n s }
  | .readCmd        => .next { s with reply := .refused }

/-- The engine takes the next host action; with none to take it stays as it is. The answer of the action before is gone. -/
def takeAction (s : State) : Host.Outcome State Fault Refusal :=
  match s.inbox with
  | []        => .next s
  | a :: rest => perform a { s with inbox := rest, reply := .silent }

/-- The pseudo-instruction DES.ENC (30_encoding.md R80). -/
def pseudoDesEnc (key blk : Bits) : List HostAction :=
  [.writeKey key, .writeCmd (encode (.expand .bank0)), .writeBlock blk, .writeCmd (encode (.enc .bank0)), .readOut]

/-- The pseudo-instruction DES.DEC (30_encoding.md R80). -/
def pseudoDesDec (key blk : Bits) : List HostAction :=
  [.writeKey key, .writeCmd (encode (.expand .bank0)), .writeBlock blk, .writeCmd (encode (.dec .bank0)), .readOut]

/-- The pseudo-instruction TDES.ENC (30_encoding.md R80). -/
def pseudoTdesEnc (key blk : Bits) : List HostAction :=
  [.writeKey key, .writeBlock blk, .writeCmd (encode .tenc), .readOut]

/-- The pseudo-instruction TDES.DEC (30_encoding.md R80). -/
def pseudoTdesDec (key blk : Bits) : List HostAction :=
  [.writeKey key, .writeBlock blk, .writeCmd (encode .tdec), .readOut]

/-- The pseudo-instruction TDES.LOAD (30_encoding.md R80). -/
def pseudoTdesLoad (key : Bits) : List HostAction :=
  [.writeKey (key.take 64), .writeCmd (encode (.expand .bank0)),
   .writeKey (key.drop 64), .writeCmd (encode (.expand .bank1))]

end Sys2Proof.Machine
end

