-- ==== Sys2Proof/Machine/Step.lean ====
section
/-! DEFINITION. The step of the machine: one host action (20_memory.md R59). And the placing of a command where the step
fetches its next one. -/

namespace Sys2Proof.Machine

/-- One step: the engine takes the host's next action to its end (20_memory.md R59). -/
def step (s : State) : Host.Outcome State Fault Refusal := takeAction s

/-- `s` with the host's next action a write of the command word `w` (assumption 1). A command word is 8 bits, whatever
`nbits`. -/
def State.withFetchWord (s : State) (_nbits w : Nat) : State :=
  { s with inbox := .writeCmd (BitVec.ofNat 8 w) :: s.inbox }

end Sys2Proof.Machine
end

