-- ==== Sys2Proof/Machine/Assembler.lean ====
section
/-! DEFINITION. The lines of a host script (30_encoding.md R79, R80), as data, and the host actions each stands for. The text of
a line (spaces, dashes, comments) is presentation and is not modelled (00_scope.md R16). -/

namespace Sys2Proof.Machine

/-- One line of a host script. A hexadecimal operand is its list of digits, any number of them (30_encoding.md R79). -/
inductive AsmLine where
  | reset
  | key (digits : List (BitVec 4))
  | keyBits (bits : Bits)
  | blk (digits : List (BitVec 4))
  | blkBits (bits : Bits)
  | expand (b : Bank)
  | enc (b : Bank)
  | dec (b : Bank)
  | tenc
  | tdec
  /-- `CMD`, a raw command word. -/
  | cmd (w : BitVec 8)
  | out
  | status
  | subkey (b n : Nat)
  /-- The pseudo-instructions DES.ENC, DES.DEC, TDES.ENC, TDES.DEC and TDES.LOAD (30_encoding.md R80). -/
  | desEnc (key blk : List (BitVec 4))
  | desDec (key blk : List (BitVec 4))
  | tdesEnc (key blk : List (BitVec 4))
  | tdesDec (key blk : List (BitVec 4))
  | tdesLoad (key : List (BitVec 4))
deriving DecidableEq, Repr

/-- The host actions of a line, in their order (30_encoding.md R79, R80). -/
def assemble : AsmLine → List HostAction
  | .reset          => [.reset]
  | .key digits     => [.writeKey (bitsOfHex digits)]
  | .keyBits bits   => [.writeKey bits]
  | .blk digits     => [.writeBlock (bitsOfHex digits)]
  | .blkBits bits   => [.writeBlock bits]
  | .expand b       => [.writeCmd (encode (.expand b))]
  | .enc b          => [.writeCmd (encode (.enc b))]
  | .dec b          => [.writeCmd (encode (.dec b))]
  | .tenc           => [.writeCmd (encode .tenc)]
  | .tdec           => [.writeCmd (encode .tdec)]
  | .cmd w          => [.writeCmd w]
  | .out            => [.readOut]
  | .status         => [.readStatus]
  | .subkey b n     => [.readSubkey b n]
  | .desEnc key blk  => pseudoDesEnc (bitsOfHex key) (bitsOfHex blk)
  | .desDec key blk  => pseudoDesDec (bitsOfHex key) (bitsOfHex blk)
  | .tdesEnc key blk => pseudoTdesEnc (bitsOfHex key) (bitsOfHex blk)
  | .tdesDec key blk => pseudoTdesDec (bitsOfHex key) (bitsOfHex blk)
  | .tdesLoad key    => pseudoTdesLoad (bitsOfHex key)

end Sys2Proof.Machine
end

