-- ==== Sys2Proof/Safety.lean ====
section
/-! DEFINITION. The terms that the statements use: which fault a command meets, the invariant of a run, and what two states
must share to be the same engine to the host. -/

namespace Sys2Proof.Machine

/-- The commands that process a block (10_state.md R25). -/
def isBlockCommand : Instr → Bool
  | .expand _ => false
  | .enc _    => true
  | .dec _    => true
  | .tenc     => true
  | .tdec     => true

/-- The fault that a legal command meets in a state, by 60_exceptions.md R178 to R180 in the order of R182; none when the
command succeeds. -/
def faultMet (i : Instr) (s : State) : Option Fault :=
  if s.tf = true then some .invalidTableIndex
  else
    match i with
    | .expand _ => if s.keyin.length ≠ 64 then some (.invalidInputLength .key) else none
    | .enc b | .dec b =>
      if s.din.length ≠ 64 then some (.invalidInputLength .block)
      else if bankValid b s = false then some (.keyNotLoaded b)
      else none
    | .tenc | .tdec =>
      if s.keyin.length ≠ 128 then some (.invalidInputLength .key)
      else if s.din.length ≠ 64 then some (.invalidInputLength .block)
      else none

/-- The state after `n` steps, if none of them stops. -/
def stepTimes : Nat → State → Option State
  | 0, s => some s
  | n + 1, s =>
    match step s with
    | .next t => stepTimes n t
    | _ => none

/-- What holds of an engine after reset and after every host action. -/
structure State.Inv (s : State) : Prop where
  /-- Outside a command SEQ = Idle (10_state.md R33). -/
  seqIdle : s.seq = .idle
  /-- ERR values 6 and 7 are never produced (60_exceptions.md R177). -/
  errProduced : s.err ≤ 5#3
  /-- A fault code in ERR is a fault that ES has seen (60_exceptions.md R183). -/
  errSeen : s.err ≠ 0 → s.es = true
  /-- DOUT is readable only if the most recent command succeeded: any fault clears OV (10_state.md R28). -/
  resultAfterSuccess : s.ov = true → s.err = 0
  /-- A result was made with a schedule that some bank still holds (10_state.md R26, R28). -/
  resultHasKey : s.ov = true → s.kv0 = true ∨ s.kv1 = true
  /-- A valid bank holds a vector that the key schedule produced (30_encoding.md R81). -/
  bank0Expanded : s.kv0 = true → ∃ key, s.ks0 = expand tables key
  bank1Expanded : s.kv1 = true → ∃ key, s.ks1 = expand tables key
  /-- TF is the result of the table-shape check (70_reset_and_hazards.md R202). -/
  tableFlag : s.tf = tableFault tables
  /-- The operand registers hold at most OPERAND_MAX_BITS (10_state.md R22, R23). -/
  keyinFits : s.keyin.length ≤ Config.operandMaxBits
  dinFits : s.din.length ≤ Config.operandMaxBits

/-- Two states are the same engine to the host: they share everything but what holds no value: DOUT while OV = 0, a bank
while its KV is 0, the working registers and the sequencer (10_state.md R25, R27, R34), and the index of the free values. -/
structure State.SameToHost (s t : State) : Prop where
  keyin : s.keyin = t.keyin
  din : s.din = t.din
  ov : s.ov = t.ov
  dout : s.ov = true → s.dout = t.dout
  kv0 : s.kv0 = t.kv0
  ks0 : s.kv0 = true → s.ks0 = t.ks0
  kv1 : s.kv1 = t.kv1
  ks1 : s.kv1 = true → s.ks1 = t.ks1
  err : s.err = t.err
  es : s.es = t.es
  tf : s.tf = t.tf
  inbox : s.inbox = t.inbox
  reply : s.reply = t.reply

/-- Every condition of the table-shape check, in words of logic (40_permute_bitvector.md R104, 70_reset_and_hazards.md
R202). -/
structure ShapesHold (T : Tables) : Prop where
  ip : T.ip.length = 64 ∧ ∀ v ∈ T.ip, 1 ≤ v ∧ v ≤ 64
  ipinv : T.ipinv.length = 64 ∧ ∀ v ∈ T.ipinv, 1 ≤ v ∧ v ≤ 64
  e : T.e.length = 48 ∧ ∀ v ∈ T.e, 1 ≤ v ∧ v ≤ 32
  p : T.p.length = 32 ∧ ∀ v ∈ T.p, 1 ≤ v ∧ v ≤ 32
  pc1 : T.pc1.length = 56 ∧ ∀ v ∈ T.pc1, 1 ≤ v ∧ v ≤ 64
  pc2 : T.pc2.length = 48 ∧ ∀ v ∈ T.pc2, 1 ≤ v ∧ v ≤ 56
  shift : T.shift.length = 16 ∧ ∀ v ∈ T.shift, 1 ≤ v ∧ v ≤ 2
  sbox : T.sbox.length = 8 ∧
    ∀ box ∈ T.sbox, box.length = 4 ∧ ∀ row ∈ box, row.length = 16 ∧ ∀ v ∈ row, v ≤ 15

end Sys2Proof.Machine
end

