-- ==== Sys2Proof/Certificates/Slice0/Obligations.lean ====
section
/-! DEFINITION. The statements for the provers. Each docstring names the rule of spec/ that the statement formalises, or the
section it rests on, and what in it is the model's own. Wherever a statement speaks of a step, the list of the host's actions and
the engine's answer (`inbox`, `reply`) are the model's form of the spec's stream of host actions (assumption 1, DESIGN CHOICE).
`s{i}` of the spec is `bit s i`. -/

open Sys2Proof Sys2Proof.Machine

/-! ## Command words (30_encoding.md) -/

/-- 30_encoding.md section 1: the encoder and the decoder agree in both directions, so every legal word has one command and
every command one word. -/
def Obligations.DecodeAndEncodeAgree : Prop :=
  (∀ i : Instr, decode (encode i) = .ok i) ∧ ∀ (w : BitVec 8) (i : Instr), decode w = .ok i → w = encode i

/-- R73, whole: the eight legal words, the match and mask pairs, and BANK as bit 3 of the words that have it. -/
def Obligations.LegalWordsAreTheEight : Prop :=
  ∀ w : BitVec 8,
    ((∃ i, decode w = .ok i) ↔ w ∈ [0x01#8, 0x02#8, 0x03#8, 0x04#8, 0x05#8, 0x09#8, 0x0A#8, 0x0B#8]) ∧
    (∀ b, decode w = .ok (.expand b) ↔ w &&& 0xF7 = 0x01 ∧ b = bankOfBit (w.getLsbD 3)) ∧
    (∀ b, decode w = .ok (.enc b) ↔ w &&& 0xF7 = 0x02 ∧ b = bankOfBit (w.getLsbD 3)) ∧
    (∀ b, decode w = .ok (.dec b) ↔ w &&& 0xF7 = 0x03 ∧ b = bankOfBit (w.getLsbD 3)) ∧
    (decode w = .ok .tenc ↔ w &&& 0xFF = 0x04) ∧
    (decode w = .ok .tdec ↔ w &&& 0xFF = 0x05)

/-- 30_encoding.md section 1: words written out from the table of the command words, one or more for each command, read as
the command they stand for, and one word with BANK = 1 that is not TENC. -/
def Obligations.WrittenOutWordsDecode : Prop :=
  decode 0b00000001 = .ok (.expand .bank0) ∧ decode 0b00001001 = .ok (.expand .bank1) ∧
  decode 0b00000010 = .ok (.enc .bank0) ∧ decode 0b00001011 = .ok (.dec .bank1) ∧
  decode 0b00000100 = .ok .tenc ∧ decode 0b00000101 = .ok .tdec ∧ decode 0b00001100 = .error .bankNotZero

/-- 30_encoding.md section 2: the decoder rejects a word by the first check that its fields fail. -/
def Obligations.RejectedWordsAreNamed : Prop :=
  ∀ (w : BitVec 8) (m : Malformed), decode w = .error m ↔ (cmdFields w).malformed = some m

/-- R74 and R181, whole: which words are illegal, and what writing one does: ERR = 5, ES set, OV cleared, and nothing
else. The host's action is taken from the front of the model's own list of actions (assumption 1). -/
def Obligations.IllegalWordIsInvalidCommand : Prop :=
  (∀ w : BitVec 8, (∃ m, decode w = .error m) ↔
    w.extractLsb' 4 4 ≠ 0 ∨ w ∈ [0x00#8, 0x06#8, 0x07#8, 0x08#8, 0x0C#8, 0x0D#8, 0x0E#8, 0x0F#8]) ∧
  ∀ (s : State) (w : BitVec 8) (rest : List HostAction), s.inbox = .writeCmd w :: rest → (∀ i, decode w ≠ .ok i) →
    step s = .next { s with
      inbox := rest, reply := .silent, err := 5, es := true, ov := false, seq := .idle }

/-- 10_state.md section 2 (R24): a step whose host action writes a legal command word is `exec` of the command, and around it
only the action is taken off the list and the answer of the one before is gone (the model's own fields, assumption 1). The
second clause says the same of a word that `State.withFetchWord` places. -/
def Obligations.StepRunsTheDecodedCommand : Prop :=
  (∀ (s : State) (w : BitVec 8) (rest : List HostAction) (i : Instr),
    s.inbox = .writeCmd w :: rest → decode w = .ok i → step s = exec i { s with inbox := rest, reply := .silent }) ∧
  ∀ (s : State) (w : BitVec 8) (i : Instr),
    decode w = .ok i → step (s.withFetchWord 8 w.toNat) = exec i { s with reply := .silent }

/-! ## Host actions, flags and reset (10_state.md, 70_reset_and_hazards.md) -/

/-- No command and no host action stops the engine. The form is the model's: that a fault and a refused read are next states is
assumption 6 (DEDUCED, from 60_exceptions.md sections 1 and 3), that a step with no action to take is a next state is assumption
1 (DESIGN CHOICE), and that an operand write beyond OPERAND_MAX_BITS is refused in a next state is assumption 4 (DESIGN CHOICE,
from 93_implementation_defined.md section 2, U4). -/
def Obligations.NothingStopsTheEngine : Prop :=
  (∀ (i : Instr) (s : State), ∃ t, exec i s = .next t) ∧ ∀ s : State, ∃ t, step s = .next t

/-- 10_state.md section 7: what is in the engine after reset, at power-on and after the host's `Reset` alike: no operand, no
result, no schedule, no fault, SEQ = Idle, TF from the table check, which passes. What stands in DOUT, in the banks and in the
working registers is the model's (assumption 3) and is not stated: a read of DOUT or of any subkey is refused. -/
def Obligations.ResetLeavesAnEmptyEngine : Prop :=
  (∀ s ∈ [State.reset], s.keyin = [] ∧ s.din = [] ∧ s.ov = false ∧ s.kv0 = false ∧ s.kv1 = false ∧ s.err = 0 ∧
    s.es = false ∧ s.tf = false ∧ s.seq = .idle ∧ statusWord s = 0x00 ∧ outReply s = .refused ∧
    ∀ b n, subkeyReply b n s = .refused) ∧
  ∀ (s : State) (rest : List HostAction), s.inbox = .reset :: rest →
    ∃ t, step s = .next t ∧ t.keyin = [] ∧ t.din = [] ∧ t.ov = false ∧ t.kv0 = false ∧ t.kv1 = false ∧ t.err = 0 ∧
      t.es = false ∧ t.tf = false ∧ t.seq = .idle ∧ statusWord t = 0x00 ∧ outReply t = .refused ∧
      (∀ b n, subkeyReply b n t = .refused) ∧ t.inbox = rest

/-- 10_state.md sections 2 and 3 (the STATUS table) and 70_reset_and_hazards.md section 1: whatever the host does but Reset, a
loaded bank stays loaded, ES stays set, and TF stays what the check of the last reset made it. -/
def Obligations.OnlyResetClearsStickyFlags : Prop :=
  ∀ (s t : State), s.inbox.head? ≠ some .reset → step s = .next t →
    (s.kv0 = true → t.kv0 = true) ∧ (s.kv1 = true → t.kv1 = true) ∧ (s.es = true → t.es = true) ∧ t.tf = s.tf

/-- 10_state.md section 2: STATUS bit by bit, and `ReadStatus` answers it and changes nothing else of the engine. -/
def Obligations.StatusIsAViewOfTheFlags : Prop :=
  (∀ s : State, (statusWord s).getLsbD 0 = s.kv0 ∧ (statusWord s).getLsbD 1 = s.kv1 ∧ (statusWord s).getLsbD 2 = s.ov ∧
    (statusWord s).getLsbD 3 = s.es ∧ (statusWord s).extractLsb' 4 3 = s.err ∧ (statusWord s).getLsbD 7 = s.tf) ∧
  ∀ (s : State) (rest : List HostAction), s.inbox = .readStatus :: rest →
    step s = .next { s with inbox := rest, reply := .status (statusWord s) }

/-- 10_state.md section 2 and 93_implementation_defined.md U4: a sequence of at most OPERAND_MAX_BITS, which is at least 128,
replaces the whole operand register; a longer one is refused and changes nothing (the bound is assumption 4, the refusal as a
next state assumption 6). -/
def Obligations.OperandWritesReplaceTheRegister : Prop :=
  128 ≤ Config.operandMaxBits ∧
  (∀ (s : State) (bits : Bits) (rest : List HostAction), s.inbox = .writeKey bits :: rest →
    (bits.length ≤ Config.operandMaxBits →
      step s = .next { s with inbox := rest, reply := .silent, keyin := bits }) ∧
    (Config.operandMaxBits < bits.length → step s = .next { s with inbox := rest, reply := .refused })) ∧
  ∀ (s : State) (bits : Bits) (rest : List HostAction), s.inbox = .writeBlock bits :: rest →
    (bits.length ≤ Config.operandMaxBits →
      step s = .next { s with inbox := rest, reply := .silent, din := bits }) ∧
    (Config.operandMaxBits < bits.length → step s = .next { s with inbox := rest, reply := .refused })

/-- 10_state.md sections 2 and 5: KEYIN changes by WriteKey or Reset only, DIN by WriteBlock or Reset only; no command,
successful or faulting, changes either. -/
def Obligations.CommandsLeaveOperandsAlone : Prop :=
  (∀ (i : Instr) (s t : State), exec i s = .next t → t.keyin = s.keyin ∧ t.din = s.din) ∧
  ∀ (s t : State), step s = .next t → s.inbox.head? ≠ some .reset →
    ((∀ bits, s.inbox.head? ≠ some (.writeKey bits)) → t.keyin = s.keyin) ∧
    ((∀ bits, s.inbox.head? ≠ some (.writeBlock bits)) → t.din = s.din)

/-- 10_state.md section 2 (R26): a bank that a command changes was written whole, by EXPAND of that bank or by TENC or TDEC,
with the schedule of the key that the command names; every other command leaves both banks alone. -/
def Obligations.BanksAreWrittenWhole : Prop :=
  ∀ (i : Instr) (s t : State) (b : Bank), exec i s = .next t →
    (bankKeys b t = bankKeys b s ∧ bankValid b t = bankValid b s) ∨
    (bankValid b t = true ∧ t.err = 0 ∧
      ((i = .expand b ∧ bankKeys b t = expand tables (ofBits 64 s.keyin)) ∨
       ((i = .tenc ∨ i = .tdec) ∧ b = .bank0 ∧ bankKeys b t = expand tables (ofBits 64 (s.keyin.take 64))) ∨
       ((i = .tenc ∨ i = .tdec) ∧ b = .bank1 ∧ bankKeys b t = expand tables (ofBits 64 (s.keyin.drop 64)))))

/-- 10_state.md section 2 (R25): a command that changes DOUT is a block command that succeeded, and OV says so; any other
command leaves DOUT, and a command that clears OV is one that faulted. -/
def Obligations.ResultComesFromASuccessfulBlockCommand : Prop :=
  ∀ (i : Instr) (s t : State), exec i s = .next t →
    (t.dout ≠ s.dout → isBlockCommand i = true ∧ t.ov = true ∧ t.err = 0) ∧
    (s.ov = true → t.ov = false → t.err ≠ 0)

/-- R185, whole: the refused reads, and that they are no faults: nothing changes but the model's own two fields. The reads that
are not refused are stated beside them (10_state.md section 6). The read of CMD as an action is assumption 7, and a refusal as a next
state is assumption 6. -/
def Obligations.ReadsAnswerOrAreRefused : Prop :=
  (∀ (s : State) (rest : List HostAction), s.inbox = .readOut :: rest →
    (s.ov = true → step s = .next { s with inbox := rest, reply := .block s.dout }) ∧
    (s.ov = false → step s = .next { s with inbox := rest, reply := .refused })) ∧
  (∀ (s : State) (rest : List HostAction) (b n : Nat), s.inbox = .readSubkey b n :: rest →
    (∀ bk, bankOfNumber b = some bk → bankValid bk s = true → ∀ i : Fin 16, n = i.val + 1 →
      step s = .next { s with inbox := rest, reply := .subkey (bankKeys bk s)[i] }) ∧
    ((1 < b ∨ n < 1 ∨ 16 < n ∨ (b = 0 ∧ s.kv0 = false) ∨ (b = 1 ∧ s.kv1 = false)) →
      step s = .next { s with inbox := rest, reply := .refused })) ∧
  ∀ (s : State) (rest : List HostAction), s.inbox = .readCmd :: rest →
    step s = .next { s with inbox := rest, reply := .refused }

/-- R57, whole: a read changes nothing of the engine, repeating it gives the same answer, no action but a command or a reset
changes what a read gives, and what a command makes of ERR, the
banks, their flags and the result is a function of KEYIN, DIN, KS, KV, TF and the command. -/
def Obligations.ReadsHaveNoSideEffectAndCommandsAreFunctions : Prop :=
  (∀ (a : HostAction) (s t u : State), (a = .readStatus ∨ a = .readOut ∨ ∃ b n, a = .readSubkey b n) →
    step { s with inbox := [a, a] } = .next t → step t = .next u →
      t = { s with inbox := [a], reply := t.reply } ∧ u = { s with inbox := [], reply := t.reply }) ∧
  (∀ s t : State, (∀ w, s.inbox.head? ≠ some (.writeCmd w)) → s.inbox.head? ≠ some .reset → step s = .next t →
    statusWord t = statusWord s ∧ outReply t = outReply s ∧ ∀ b n, subkeyReply b n t = subkeyReply b n s) ∧
  ∀ (i : Instr) (s t s' t' : State),
    s.keyin = t.keyin → s.din = t.din → s.ks0 = t.ks0 → s.ks1 = t.ks1 → s.kv0 = t.kv0 → s.kv1 = t.kv1 → s.tf = t.tf →
    exec i s = .next s' → exec i t = .next t' →
      s'.err = t'.err ∧ s'.ks0 = t'.ks0 ∧ s'.ks1 = t'.ks1 ∧ s'.kv0 = t'.kv0 ∧ s'.kv1 = t'.kv1 ∧
      (isBlockCommand i = true → s'.ov = t'.ov ∧ (s'.ov = true → s'.dout = t'.dout))

/-! ## Bit sequences and tables (00_scope.md, 20_memory.md, 40_permute_bitvector.md) -/

/-- R52, whole: the sequence of an operand given as bytes, and where its bits lie in a 64-bit register. -/
def Obligations.OperandsAreBigEndianMsbFirst : Prop :=
  (∀ (bytes : List (BitVec 8)) (k : Fin bytes.length) (j : Nat), 1 ≤ j → j ≤ 8 →
    (bitsOfBytes bytes)[8 * k.val + j - 1]? = some ((bytes[k] >>> (8 - j)).getLsbD 0)) ∧
  (∀ (l : Bits) (i : Nat), l.length = 64 → 1 ≤ i → i ≤ 64 → (ofBits 64 l).getLsbD (64 - i) = l[i - 1]?.getD false) ∧
  ∀ (x : Block) (i : Nat), 1 ≤ i → i ≤ 64 → (toBits x)[i - 1]? = some (x.getLsbD (64 - i))

/-- R53, whole: keyA is bits 1 to 64 of a 128-bit KEYIN and keyB is bits 65 to 128. -/
def Obligations.CompositeKeySplitsByPosition : Prop :=
  ∀ (s : State) (i : Nat), s.keyin.length = 128 → 1 ≤ i → i ≤ 64 →
    bit (keyFrom .keyA s) i = s.keyin[i - 1]?.getD false ∧ bit (keyFrom .keyB s) i = s.keyin[64 + i - 1]?.getD false

/-- R90, whole: `y{i} = x{T{i}}`, to as many bits as the table has entries. -/
def Obligations.PermuteSelectsByTable : Prop :=
  ∀ (n : Nat) (x : BitVec n) (t : List Nat), (∀ v ∈ t, 1 ≤ v ∧ v ≤ n) →
    ∃ y : BitVec t.length, permuteChecked x t = .ok y ∧ ∀ i, 1 ≤ i → i ≤ t.length → bit y i = bit x (memRead t i)

/-- R91, whole: an entry above the input length, or below 1, is the fault InvalidTableIndex and gives no output; the tables
that pass the shape check never meet it at the widths the commands use, and the tables of this engine pass. -/
def Obligations.PermuteFaultsOnABadEntry : Prop :=
  (∀ (n : Nat) (x : BitVec n) (t : List Nat), (∃ v ∈ t, v < 1 ∨ n < v) → permuteChecked x t = .error .invalidTableIndex) ∧
  (∀ (T : Tables), shapesOk T = true →
    (∀ x : BitVec 64, ∃ y, permuteChecked x T.ip = .ok y) ∧ (∀ x : BitVec 64, ∃ y, permuteChecked x T.ipinv = .ok y) ∧
    (∀ x : BitVec 32, ∃ y, permuteChecked x T.e = .ok y) ∧ (∀ x : BitVec 32, ∃ y, permuteChecked x T.p = .ok y) ∧
    (∀ x : BitVec 64, ∃ y, permuteChecked x T.pc1 = .ok y) ∧ (∀ x : BitVec 56, ∃ y, permuteChecked x T.pc2 = .ok y)) ∧
  shapesOk tables = true

/-- R92, whole: the identity table, and the composition of two permutations, `V{i} = T{U{i}}`. -/
def Obligations.PermuteIdentityAndComposition : Prop :=
  (∀ (n : Nat) (x : BitVec n), permute n (List.range' 1 n) x = x) ∧
  ∀ (n m k : Nat) (t u : List Nat) (x : BitVec n), t.length = m → u.length = k → (∀ v ∈ u, 1 ≤ v ∧ v ≤ m) →
    permute k u (permute m t x) = permute k (u.map (memRead t)) x

/-- R94, whole: the rotated bit by bit and as two slices, and the corner cases. -/
def Obligations.RotateLeftWrapsAround : Prop :=
  ∀ (n : Nat) (x : BitVec n),
    (∀ (k i : Nat), 1 ≤ i → i ≤ n → bit (rotl x k) i = bit x ((i - 1 + k) % n + 1)) ∧
    (∀ k, 0 < k → k < n → toBits (rotl x k) = (toBits x).drop k ++ (toBits x).take k) ∧
    rotl x 0 = x ∧ rotl x n = x ∧ ∀ a b, rotl (rotl x a) b = rotl x (a + b)

/-- R95, whole: the halves by position, join as the inverse of split, and the three uses: K+ into C0 and D0, the permuted block
into L0 and R0, the S-box input into eight groups of six. -/
def Obligations.SplitAndJoinArePositional : Prop :=
  (∀ (h : Nat) (x : BitVec (h + h)) (i : Nat), 1 ≤ i → i ≤ h →
    bit (split h x).1 i = bit x i ∧ bit (split h x).2 i = bit x (h + i)) ∧
  (∀ (h : Nat) (x : BitVec (h + h)), (split h x).1 ++ (split h x).2 = x) ∧
  (∀ (h : Nat) (a b : BitVec h), split h (a ++ b) = (a, b)) ∧
  (∀ (T : Tables) (key : Key64), keyState T key 0 = split 28 (permute 56 T.pc1 key)) ∧
  (∀ (T : Tables) (s : State), (enter T .ipApplied s).work.l = (split 32 (permute 64 T.ip s.work.b)).1 ∧
    (enter T .ipApplied s).work.r = (split 32 (permute 64 T.ip s.work.b)).2) ∧
  ∀ (x : BitVec 48) (j i : Nat), 1 ≤ j → j ≤ 8 → 1 ≤ i → i ≤ 6 → bit (sboxGroup x j) i = bit x (6 * j - 6 + i)

/-- 40_permute_bitvector.md section 2: IPINV undoes IP and IP undoes IPINV, on every block. -/
def Obligations.FinalPermutationInvertsInitial : Prop :=
  ∀ x : Block, permute 64 tables.ipinv (permute 64 tables.ip x) = x ∧
    permute 64 tables.ip (permute 64 tables.ipinv x) = x

/-- 40_permute_bitvector.md section 2: group j of E's output is the input bits 4j-4 to 4j+1, taken cyclically. -/
def Obligations.ExpansionOverlapsCyclically : Prop :=
  ∀ (r : Half) (j i : Nat), 1 ≤ j → j ≤ 8 → 1 ≤ i → i ≤ 6 →
    bit (permute 48 tables.e r) (6 * (j - 1) + i) = bit r ((4 * j + i + 26) % 32 + 1)

/-- R104 and R202, whole: the shape check is exactly the conditions of R104; TF is 0 after a reset whose check passes and 1
otherwise, the tables of this engine pass, and no action but a reset writes TF. -/
def Obligations.ShapeCheckDecidesTableFault : Prop :=
  (∀ T : Tables, (tableFault T = false ↔ ShapesHold T) ∧ (tableFault T = true ↔ ¬ ShapesHold T)) ∧
  ShapesHold tables ∧ State.reset.tf = tableFault tables ∧
  (∀ (s : State) (rest : List HostAction), s.inbox = .reset :: rest → ∃ t, step s = .next t ∧ t.tf = tableFault tables) ∧
  ∀ (s t : State), s.inbox.head? ≠ some .reset → step s = .next t → t.tf = s.tf

/-! ## The key schedule (41_key_schedule.md) -/

/-- R110, whole. The first clause is where EXPAND completes, with all it changes: bank b, ERR, and what the spec leaves without
a value (`w` and `n`: the working registers and the model's own count of free values, of which nothing is
said; assumption 2). -/
def Obligations.ExpandCommand : Prop :=
  (∀ (b : Bank) (s : State), s.tf = false → s.keyin.length = 64 →
    ∃ w n, exec (.expand b) s = .next
      (match b with
       | .bank0 => { s with
           ks0 := expand tables (ofBits 64 s.keyin), kv0 := true, err := 0, seq := .idle, work := w, fresh := n }
       | .bank1 => { s with
           ks1 := expand tables (ofBits 64 s.keyin), kv1 := true, err := 0, seq := .idle, work := w, fresh := n })) ∧
  (∀ (b : Bank) (s : State), s.tf = true →
    exec (.expand b) s = .next { s with err := 3, es := true, ov := false, seq := .idle }) ∧
  (∀ (b : Bank) (s : State), s.tf = false → s.keyin.length ≠ 64 →
    exec (.expand b) s = .next { s with err := 1, es := true, ov := false, seq := .idle }) ∧
  decode 0x01 = .ok (.expand .bank0) ∧ decode 0x09 = .ok (.expand .bank1) ∧
  (∀ key key' : Key64, (∀ i, 1 ≤ i → i ≤ 64 → i % 8 ≠ 0 → bit key i = bit key' i) → expand tables key = expand tables key') ∧
  expand tables 0 = Vector.replicate 16 0 ∧ expand tables (BitVec.allOnes 64) = Vector.replicate 16 (BitVec.allOnes 48) ∧
  (expand tables 0x133457799BBCDFF1)[15] = 0xCB3D8B0E17F5

/-- R111 and R113, whole: the transitions of the key schedule into KsPc1Applied, and the subkey that KsRound(n) holds, made
from C and D after the round's rotation, C first. -/
def Obligations.KeyScheduleTransitions : Prop :=
  (∀ (T : Tables) (s : State),
    (enter T .ksPc1Applied s).work.c = (split 28 (permute 56 T.pc1 s.work.keyLatch)).1 ∧
    (enter T .ksPc1Applied s).work.d = (split 28 (permute 56 T.pc1 s.work.keyLatch)).2 ∧
    (enter T .ksPc1Applied s).work.kn = 0) ∧
  ∀ (T : Tables) (s : State) (i : Fin 16),
    (enter T (.ksRound (i.val + 1)) s).work.held[i] =
      permute 48 T.pc2 ((enter T (.ksRound (i.val + 1)) s).work.c ++ (enter T (.ksRound (i.val + 1)) s).work.d)

/-- R112, whole: round n rotates both halves of round n-1's state by SHIFT{n} and sets KN, and so Cn and Dn are C0 and D0
rotated by the cumulative amounts 1, 2, 4, ..., 28. -/
def Obligations.KeyScheduleRotations : Prop :=
  (∀ (T : Tables) (s : State) (n : Nat), 1 ≤ n → n ≤ 16 →
    (enter T (.ksRound n) s).work.c = rotl s.work.c (memRead T.shift n) ∧
    (enter T (.ksRound n) s).work.d = rotl s.work.d (memRead T.shift n) ∧
    (enter T (.ksRound n) s).work.kn.val = n) ∧
  ∀ (key : Key64) (n : Nat), 1 ≤ n → n ≤ 16 →
    keyState tables key n =
      (rotl (keyState tables key 0).1 (memRead [1, 2, 4, 6, 8, 10, 12, 14, 15, 17, 19, 21, 23, 25, 27, 28] n),
       rotl (keyState tables key 0).2 (memRead [1, 2, 4, 6, 8, 10, 12, 14, 15, 17, 19, 21, 23, 25, 27, 28] n))

/-- R117, whole: (a) C16 = C0 and D16 = D0; (b) key bits 8, 16, ..., 64 are not used, with the rule's own pair of keys; (c) each
Kn selects 48 different bits of K+, 24 from C0's and 24 from D0's, the same for every key; (d) constant halves give sixteen
equal subkeys. -/
def Obligations.KeyScheduleProperties : Prop :=
  (∀ key : Key64, keyState tables key 16 = keyState tables key 0) ∧
  (∀ key key' : Key64, (∀ i, 1 ≤ i → i ≤ 64 → i % 8 ≠ 0 → bit key i = bit key' i) → expand tables key = expand tables key') ∧
  expand tables 0x133457799BBCDFF1 = expand tables 0x123456789ABCDEF0 ∧
  (∀ n, 1 ≤ n → n ≤ 16 → ∃ sel : List Nat, sel.length = 48 ∧ sel.Nodup ∧
    (∀ v ∈ sel.take 24, 1 ≤ v ∧ v ≤ 28) ∧ (∀ v ∈ sel.drop 24, 29 ≤ v ∧ v ≤ 56) ∧
    ∀ key : Key64, subkeyAt (expand tables key) n = permute 48 sel (permute 56 tables.pc1 key)) ∧
  ∀ key : Key64, ((keyState tables key 0).1 = 0 ∨ (keyState tables key 0).1 = BitVec.allOnes 28) →
    ((keyState tables key 0).2 = 0 ∨ (keyState tables key 0).2 = BitVec.allOnes 28) →
    ∀ n, 1 ≤ n → n ≤ 16 → subkeyAt (expand tables key) n = subkeyAt (expand tables key) 1

/-- R61, whole: what EXPAND wrote is there for the next command and the next read, with no action between. -/
def Obligations.ExpandIsVisibleAtOnce : Prop :=
  ∀ (b : Bank) (s : State), s.tf = false → s.keyin.length = 64 → s.din.length = 64 →
    ∃ a e d, exec (.expand b) s = .next a ∧ exec (.enc b) a = .next e ∧ exec (.dec b) a = .next d ∧
      outReply e = .block (desPass tables (ofBits 64 s.din) (expand tables (ofBits 64 s.keyin)) .enc) ∧
      outReply d = .block (desPass tables (ofBits 64 s.din) (expand tables (ofBits 64 s.keyin)) .dec) ∧
      ∀ i : Fin 16, subkeyReply (match b with | .bank0 => 0 | .bank1 => 1) (i.val + 1) a =
        .subkey (expand tables (ofBits 64 s.keyin))[i]

/-! ## The round function (42_round_function.md) -/

/-- R128, whole: row from the outer bits, column from the inner four, the entry written out most significant bit first; row and
column are in range and the entry of this engine's tables is below 16, so nothing is lost. -/
def Obligations.SboxLookupByRowAndColumn : Prop :=
  ∀ (j : Nat) (g : BitVec 6), 1 ≤ j → j ≤ 8 →
    let row := 2 * (bit g 1).toNat + (bit g 6).toNat
    let col := 8 * (bit g 2).toNat + 4 * (bit g 3).toNat + 2 * (bit g 4).toNat + (bit g 5).toNat
    row ≤ 3 ∧ col ≤ 15 ∧ (sbox tables j g).toNat = memReadS tables j row col

/-- R127 and R129, whole: S-box j reads bits 6j-5 to 6j of its input and no other, and its output is bits 4j-3 to 4j of the
joined result. -/
def Obligations.SboxLayerWorksGroupByGroup : Prop :=
  ∀ (T : Tables) (x : BitVec 48) (j : Nat), 1 ≤ j → j ≤ 8 →
    slice (sboxLayer T x) (4 * j - 3) 4 = sbox T j (slice x (6 * j - 5) 6)

/-- 42_round_function.md sections 1, 2 and 4: F bit by bit. Output bit i is the S-box bit that P selects; the S-box input is
the bit of r that E selects, exclusive-or the subkey bit of the same position. -/
def Obligations.RoundFunctionBitByBit : Prop :=
  ∀ (r : Half) (k : Subkey),
    (∀ i, 1 ≤ i → i ≤ 32 →
      bit (roundF tables r k) i = bit (sboxLayer tables (permute 48 tables.e r ^^^ k)) (memRead tables.p i)) ∧
    ∀ i, 1 ≤ i → i ≤ 48 → bit (permute 48 tables.e r ^^^ k) i = (bit r (memRead tables.e i) != bit k i)

/-! ## A pass, ENC and DEC (43_feistel_des.md) -/

/-- R147, R150 and R151, whole: the transitions of a pass outside the rounds. -/
def Obligations.PassTransitions : Prop :=
  ∀ (T : Tables) (s : State),
    enter T .ipApplied s = { s with
      work := { s.work with
        l := slice (permute 64 T.ip s.work.b) 1 32, r := slice (permute 64 T.ip s.work.b) 33 32, rn := 0 }
      seq := .ipApplied } ∧
    enter T .swapped s = { s with work := { s.work with pre := s.work.r ++ s.work.l }, seq := .swapped } ∧
    enter T .ipInvApplied s = { s with
      work := { s.work with outv := permute 64 T.ipinv s.work.pre }, seq := .ipInvApplied }

/-- R148 and R149, whole: a round writes both halves from the old pair, with subkey n of bank KB in direction enc and subkey
17-n of it in direction dec; nothing else differs between the directions, so a decrypting pass is an encrypting one with the
schedule read backwards. -/
def Obligations.RoundTransition : Prop :=
  (∀ (T : Tables) (s : State) (n : Nat), 1 ≤ n → n ≤ 16 →
    ∃ k : Subkey, (s.work.dir = .enc → some k = (bankKeys s.work.kb s)[n - 1]?) ∧
      (s.work.dir = .dec → some k = (bankKeys s.work.kb s)[17 - n - 1]?) ∧
      enter T (.round n) s = { s with
        work := { s.work with l := s.work.r, r := s.work.l ^^^ roundF T s.work.r k, rn := Fin.ofNat 17 n }
        seq := .round n }) ∧
  ∀ (T : Tables) (block : Block) (ks : Schedule), desPass T block ks .dec = desPass T block ks.reverse .enc

/-- 10_state.md section 4, 43_feistel_des.md section 1 and 41_key_schedule.md section 2: the phases that a pass and a key
schedule go through, in their order, 21 of them in a pass; each transition enters the phase it is named for. -/
def Obligations.PhasesFollowTheFixedPath : Prop :=
  (∀ (T : Tables) (t : Transition) (s : State), (enter T t s).seq = t.phase) ∧
  (∀ pass kb dir src,
    (passPath pass kb dir src ++ [Transition.doneToDout]).map Transition.phase =
      [.init, .ipApplied] ++ (List.range' 1 16).map .round ++ [.swapped, .ipInvApplied, .done] ∧
    (passPath pass kb dir src ++ [Transition.doneToDout]).length = 21) ∧
  ∀ b src, (schedulePath b src).map Transition.phase =
    [.ksInit, .ksPc1Applied] ++ (List.range' 1 16).map .ksRound ++ [.ksDone]

/-- R153, whole. The first clause is where ENC completes, with all it changes: DOUT, OV, ERR, and what the spec leaves without a
value (`w` and `n`, of which nothing is said; assumption 2). KEYIN stands in none of the conditions. -/
def Obligations.EncCommand : Prop :=
  (∀ (b : Bank) (s : State), s.tf = false → s.din.length = 64 → bankValid b s = true →
    ∃ w n, exec (.enc b) s = .next { s with
      dout := desPass tables (ofBits 64 s.din) (bankKeys b s) .enc, ov := true, err := 0, seq := .idle,
      work := w, fresh := n }) ∧
  (∀ (b : Bank) (s : State), s.tf = true →
    exec (.enc b) s = .next { s with err := 3, es := true, ov := false, seq := .idle }) ∧
  (∀ (b : Bank) (s : State), s.tf = false → s.din.length ≠ 64 →
    exec (.enc b) s = .next { s with err := 2, es := true, ov := false, seq := .idle }) ∧
  (∀ (b : Bank) (s : State), s.tf = false → s.din.length = 64 → bankValid b s = false →
    exec (.enc b) s = .next { s with err := 4, es := true, ov := false, seq := .idle }) ∧
  decode 0x02 = .ok (.enc .bank0) ∧ decode 0x0A = .ok (.enc .bank1) ∧
  desPass tables 0x0123456789ABCDEF (expand tables 0x133457799BBCDFF1) .enc = 0x85E813540F0AB405

/-- R154, whole. The first clause is where DEC completes, with all it changes, as for ENC. -/
def Obligations.DecCommand : Prop :=
  (∀ (b : Bank) (s : State), s.tf = false → s.din.length = 64 → bankValid b s = true →
    ∃ w n, exec (.dec b) s = .next { s with
      dout := desPass tables (ofBits 64 s.din) (bankKeys b s) .dec, ov := true, err := 0, seq := .idle,
      work := w, fresh := n }) ∧
  (∀ (b : Bank) (s : State), s.tf = true →
    exec (.dec b) s = .next { s with err := 3, es := true, ov := false, seq := .idle }) ∧
  (∀ (b : Bank) (s : State), s.tf = false → s.din.length ≠ 64 →
    exec (.dec b) s = .next { s with err := 2, es := true, ov := false, seq := .idle }) ∧
  (∀ (b : Bank) (s : State), s.tf = false → s.din.length = 64 → bankValid b s = false →
    exec (.dec b) s = .next { s with err := 4, es := true, ov := false, seq := .idle }) ∧
  decode 0x03 = .ok (.dec .bank0) ∧ decode 0x0B = .ok (.dec .bank1) ∧
  desPass tables 0x85E813540F0AB405 (expand tables 0x133457799BBCDFF1) .dec = 0x0123456789ABCDEF

/-- R156, whole: decrypting undoes encrypting and encrypting undoes decrypting, for every block and every vector of sixteen
subkeys, those that no key gives among them. -/
def Obligations.PassRoundTrip : Prop :=
  ∀ (block : Block) (ks : Schedule),
    desPass tables (desPass tables block ks .enc) ks .dec = block ∧
    desPass tables (desPass tables block ks .dec) ks .enc = block

/-- R157, whole: what a block command makes of DOUT, OV and ERR depends on DIN and the key material only: the bank it reads for
ENC and DEC, KEYIN for TENC and TDEC; never on DOUT, on an earlier command, or on anything else in the state (but TF, which the
host cannot change). -/
def Obligations.BlocksAreIndependent : Prop :=
  ∀ (i : Instr) (s t s' t' : State), isBlockCommand i = true → s.din = t.din → s.tf = t.tf →
    (∀ b, i = .enc b ∨ i = .dec b → bankValid b s = bankValid b t ∧ (bankValid b s = true → bankKeys b s = bankKeys b t)) →
    (i = .tenc ∨ i = .tdec → s.keyin = t.keyin) →
    exec i s = .next s' → exec i t = .next t' →
      s'.ov = t'.ov ∧ s'.err = t'.err ∧ (s'.ov = true → s'.dout = t'.dout)

/-- Derived from 95_test_vectors.md sections 2.2 and 2.4: complementing every bit of the key and of the block complements every
bit of the result, in both directions. -/
def Obligations.ComplementationProperty : Prop :=
  ∀ (block : Block) (key : Key64) (dir : Dir),
    desPass tables (~~~block) (expand tables (~~~key)) dir = ~~~(desPass tables block (expand tables key) dir)

/-! ## Triple-DES (44_triple_des.md) -/

/-- R165, whole. The first clause is where TENC completes, with all it changes: both banks, DOUT, OV, ERR, and what the spec
leaves without a value (`w` and `n`, of which nothing is said; assumption 2). KV stands in none of the conditions. -/
def Obligations.TencCommand : Prop :=
  (∀ s : State, s.tf = false → s.keyin.length = 128 → s.din.length = 64 →
    ∃ w n, exec .tenc s = .next { s with
      ks0 := expand tables (ofBits 64 (s.keyin.take 64)), kv0 := true,
      ks1 := expand tables (ofBits 64 (s.keyin.drop 64)), kv1 := true,
      dout := encrypt3 tables (ofBits 64 s.din) (ofBits 64 (s.keyin.take 64)) (ofBits 64 (s.keyin.drop 64)),
      ov := true, err := 0, seq := .idle, work := w, fresh := n }) ∧
  (∀ s : State, s.tf = true →
    exec .tenc s = .next { s with err := 3, es := true, ov := false, seq := .idle }) ∧
  (∀ s : State, s.tf = false → s.keyin.length ≠ 128 →
    exec .tenc s = .next { s with err := 1, es := true, ov := false, seq := .idle }) ∧
  (∀ s : State, s.tf = false → s.keyin.length = 128 → s.din.length ≠ 64 →
    exec .tenc s = .next { s with err := 2, es := true, ov := false, seq := .idle }) ∧
  decode 0x04 = .ok .tenc ∧ (∀ i, decode 0x0C ≠ .ok i) ∧
  encrypt3 tables 0x1234567890ABCDEF 0x1122334455667789 0x8798794535213544 = 0x3A3ACE650DB3BBDC

/-- R166, whole. The first clause is where TDEC completes, with all it changes, as for TENC. -/
def Obligations.TdecCommand : Prop :=
  (∀ s : State, s.tf = false → s.keyin.length = 128 → s.din.length = 64 →
    ∃ w n, exec .tdec s = .next { s with
      ks0 := expand tables (ofBits 64 (s.keyin.take 64)), kv0 := true,
      ks1 := expand tables (ofBits 64 (s.keyin.drop 64)), kv1 := true,
      dout := decrypt3 tables (ofBits 64 s.din) (ofBits 64 (s.keyin.take 64)) (ofBits 64 (s.keyin.drop 64)),
      ov := true, err := 0, seq := .idle, work := w, fresh := n }) ∧
  (∀ s : State, s.tf = true →
    exec .tdec s = .next { s with err := 3, es := true, ov := false, seq := .idle }) ∧
  (∀ s : State, s.tf = false → s.keyin.length ≠ 128 →
    exec .tdec s = .next { s with err := 1, es := true, ov := false, seq := .idle }) ∧
  (∀ s : State, s.tf = false → s.keyin.length = 128 → s.din.length ≠ 64 →
    exec .tdec s = .next { s with err := 2, es := true, ov := false, seq := .idle }) ∧
  decode 0x05 = .ok .tdec ∧ (∀ i, decode 0x0D ≠ .ok i) ∧
  decrypt3 tables 0x3A3ACE650DB3BBDC 0x1122334455667789 0x8798794535213544 = 0x1234567890ABCDEF

/-- R168, whole: the path of TENC and TDEC (two key schedules, then three full passes with these banks and directions, each from
Init to Done), that a command which meets no fault walks it to its end in one step, so that the host sees the banks and DOUT
change together, that pass 1 and pass 2 hand their result to T and change nothing the host sees, and that the next pass takes
its block from T. -/
def Obligations.TriplePassesRunInOrder : Prop :=
  commandPath .tenc =
    schedulePath .bank0 .keyA ++ schedulePath .bank1 .keyB ++
    (passPath .one .bank0 .enc .din ++ [.doneToT]) ++ (passPath .two .bank1 .dec .t ++ [.doneToT]) ++
    (passPath .three .bank0 .enc .t ++ [.doneToDout]) ∧
  commandPath .tdec =
    schedulePath .bank0 .keyA ++ schedulePath .bank1 .keyB ++
    (passPath .one .bank0 .dec .din ++ [.doneToT]) ++ (passPath .two .bank1 .enc .t ++ [.doneToT]) ++
    (passPath .three .bank0 .dec .t ++ [.doneToDout]) ∧
  (∀ (i : Instr) (s : State), i = .tenc ∨ i = .tdec → faultMet i s = none →
    ∃ w n, exec i s = .next { runPath tables (commandPath i) s with seq := .idle, work := w, fresh := n }) ∧
  (∀ (T : Tables) (pass : PassNo) (kb : Bank) (dir : Dir) (src : BlockSource) (s : State), ∃ w,
    runPath T (passPath pass kb dir src ++ [.doneToT]) s = { s with work := w, seq := .done } ∧
    w.t = desPass T (blockFrom src s) (bankKeys kb s) dir) ∧
  ∀ (T : Tables) (pass : PassNo) (kb : Bank) (dir : Dir) (s : State),
    (enter T (.init pass kb dir .t) s).work.b = s.work.t

/-- R169, whole: TENC against EXPAND 0 on keyA, EXPAND 1 on keyB, ENC 0, DEC 1, ENC 0 with each result carried from DOUT to
DIN, and TDEC against the same with DEC 0, ENC 1, DEC 0: the same DOUT and the same banks, and not the same KEYIN and DIN. -/
def Obligations.TripleEqualsSingleCommands : Prop :=
  ∀ (s : State) (triple : Instr) (outer inner : Bank → Instr),
    (triple = .tenc ∧ outer = .enc ∧ inner = .dec) ∨ (triple = .tdec ∧ outer = .dec ∧ inner = .enc) →
    s.tf = false → s.keyin.length = 128 → s.din.length = 64 →
    ∃ t a b c d e,
      exec triple s = .next t ∧
      exec (.expand .bank0) { s with keyin := s.keyin.take 64 } = .next a ∧
      exec (.expand .bank1) { a with keyin := s.keyin.drop 64 } = .next b ∧
      exec (outer .bank0) b = .next c ∧
      exec (inner .bank1) { c with din := toBits c.dout } = .next d ∧
      exec (outer .bank0) { d with din := toBits d.dout } = .next e ∧
      e.dout = t.dout ∧ e.ov = t.ov ∧ e.ks0 = t.ks0 ∧ e.ks1 = t.ks1 ∧ e.kv0 = t.kv0 ∧ e.kv1 = t.kv1 ∧
      t.keyin = s.keyin ∧ t.din = s.din ∧ e.keyin = s.keyin.drop 64 ∧ e.din = toBits d.dout

/-- R170, whole: TDEC of the result of TENC gives the block back, and TENC of the result of TDEC does, with the host writing
DOUT to DIN between the two. -/
def Obligations.TripleRoundTrip : Prop :=
  ∀ (s : State) (first second : Instr),
    (first = .tenc ∧ second = .tdec) ∨ (first = .tdec ∧ second = .tenc) →
    s.tf = false → s.keyin.length = 128 → s.din.length = 64 →
    ∃ t u, exec first s = .next t ∧ exec second { t with din := toBits t.dout } = .next u ∧
      u.ov = true ∧ toBits u.dout = s.din

/-- R171, whole: with equal halves TENC gives what ENC gives under the one key and TDEC what DEC gives, and both banks are
loaded with the same schedule. -/
def Obligations.EqualHalvesAreSingleDes : Prop :=
  ∀ (s : State) (key : Key64), s.tf = false → s.keyin = toBits key ++ toBits key → s.din.length = 64 →
    (∃ t, exec .tenc s = .next t ∧ t.dout = desPass tables (ofBits 64 s.din) (expand tables key) .enc ∧ t.ov = true ∧
      t.ks0 = expand tables key ∧ t.ks1 = expand tables key ∧ t.kv0 = true ∧ t.kv1 = true) ∧
    ∃ t, exec .tdec s = .next t ∧ t.dout = desPass tables (ofBits 64 s.din) (expand tables key) .dec ∧ t.ov = true ∧
      t.ks0 = expand tables key ∧ t.ks1 = expand tables key ∧ t.kv0 = true ∧ t.kv1 = true

/-! ## Faults (60_exceptions.md) -/

/-- R178, R182 and R183, whole: which widths (and which empty bank) fault (`faultMet`), the order of the checks, with
InvalidCommand before all of them, and what a fault does: ERR, ES, OV and SEQ, and nothing else; a read of DOUT is then refused
until a block command succeeds. -/
def Obligations.FaultsInPriorityOrder : Prop :=
  (∀ (s : State) (w : BitVec 8) (rest : List HostAction), s.inbox = .writeCmd w :: rest → (∀ i, decode w ≠ .ok i) →
    step s = .next { s with
      inbox := rest, reply := .silent, err := faultCode .invalidCommand, es := true, ov := false, seq := .idle }) ∧
  (∀ (i : Instr) (s : State) (f : Fault), faultMet i s = some f →
    exec i s = .next { s with err := faultCode f, es := true, ov := false, seq := .idle }) ∧
  (∀ (i : Instr) (s t : State), faultMet i s = none → exec i s = .next t → t.err = 0 ∧ t.es = s.es) ∧
  (∀ s : State, s.ov = false → outReply s = .refused) ∧
  ∀ s t : State, s.ov = false → step s = .next t → t.ov = true →
    ∃ w rest i, s.inbox = .writeCmd w :: rest ∧ decode w = .ok i ∧ isBlockCommand i = true ∧ t.err = 0

/-- 60_exceptions.md section 1: the code of each fault in STATUS.ERR, and that no fault has code 0, 6 or 7. -/
def Obligations.FaultCodesInStatus : Prop :=
  ∀ (s : State) (f : Fault),
    (statusWord (raise f s)).extractLsb' 4 3 =
      (match f with
       | .invalidInputLength .key => 1
       | .invalidInputLength .block => 2
       | .invalidTableIndex => 3
       | .keyNotLoaded _ => 4
       | .invalidCommand => 5) ∧
    (statusWord (raise f s)).getLsbD 3 = true ∧ (statusWord (raise f s)).getLsbD 2 = false

/-- R184, whole: every fault ends in `raise`, and the next command does after it what it would have done without it: it meets
the fault it would have met, and if it meets none it does all it would have done, writes ERR 0 and leaves ES set (OV, which the
fault cleared, is then 1 exactly after a block command). -/
def Obligations.CommandsRunNormallyAfterAFault : Prop :=
  (∀ (i : Instr) (s : State) (f : Fault), faultMet i s = some f → exec i s = .next (raise f s)) ∧
  (∀ (w : BitVec 8) (s : State), (∀ i, decode w ≠ .ok i) → writeCmd w s = .next (raise .invalidCommand s)) ∧
  ∀ (f : Fault) (j : Instr) (s : State), faultMet j (raise f s) = faultMet j s ∧
    (faultMet j s = none → ∃ v w n, exec j s = .next v ∧ v.err = 0 ∧
      exec j (raise f s) = .next { v with es := true, ov := isBlockCommand j, work := w, fresh := n })

/-! ## Whole-machine statements -/

/-- Derived from the rules that the fields of `State.Inv` name: every step keeps the invariant, whatever the host does. -/
def Obligations.StepKeepsInvariant : Prop :=
  ∀ s t : State, s.Inv → step s = .next t → t.Inv

/-- The invariant holds after reset. -/
def Obligations.ResetMeetsInvariant : Prop := State.reset.Inv

/-- Derived from 10_state.md sections 2 and 4 and 93_implementation_defined.md U1 to U3: what holds no value is never observed.
Two engines that are the same to the host stay so under every host action, with the same answers: no action's result depends on
DOUT while OV = 0, on a bank while its KV is 0, on the working registers, or on SEQ. -/
def Obligations.ValuelessStateIsNeverObserved : Prop :=
  ∀ s t : State, s.SameToHost t → ∃ s' t', step s = .next s' ∧ step t = .next t' ∧ s'.SameToHost t'

/-- R80, whole: the five pseudo-instructions, the host actions each expands to, and, run from any state of an engine whose tables
passed the check, what each computes and what TDES.LOAD leaves. The list of actions that the engine takes and the answer in which
the result stands are the model's (assumption 1). -/
def Obligations.PseudoInstructionsCompute : Prop :=
  (∀ k b : Bits,
    pseudoDesEnc k b = [.writeKey k, .writeCmd 0x01, .writeBlock b, .writeCmd 0x02, .readOut] ∧
    pseudoDesDec k b = [.writeKey k, .writeCmd 0x01, .writeBlock b, .writeCmd 0x03, .readOut] ∧
    pseudoTdesEnc k b = [.writeKey k, .writeBlock b, .writeCmd 0x04, .readOut] ∧
    pseudoTdesDec k b = [.writeKey k, .writeBlock b, .writeCmd 0x05, .readOut] ∧
    pseudoTdesLoad k =
      [.writeKey (k.take 64), .writeCmd 0x01, .writeKey (k.drop 64), .writeCmd 0x09]) ∧
  ∀ (s : State) (key blk : Block) (keyB : Key64), s.tf = false →
    (∃ t : State, stepTimes 5 { s with inbox := pseudoDesEnc (toBits key) (toBits blk) } = some t ∧
      t.reply = .block (desPass tables blk (expand tables key) .enc)) ∧
    (∃ t : State, stepTimes 5 { s with inbox := pseudoDesDec (toBits key) (toBits blk) } = some t ∧
      t.reply = .block (desPass tables blk (expand tables key) .dec)) ∧
    (∃ t : State, stepTimes 4 { s with inbox := pseudoTdesEnc (toBits key ++ toBits keyB) (toBits blk) } = some t ∧
      t.reply = .block (encrypt3 tables blk key keyB)) ∧
    (∃ t : State, stepTimes 4 { s with inbox := pseudoTdesDec (toBits key ++ toBits keyB) (toBits blk) } = some t ∧
      t.reply = .block (decrypt3 tables blk key keyB)) ∧
    ∃ t : State, stepTimes 4 { s with inbox := pseudoTdesLoad (toBits key ++ toBits keyB) } = some t ∧
      t.ks0 = expand tables key ∧ t.kv0 = true ∧ t.ks1 = expand tables keyB ∧ t.kv1 = true ∧
      t.keyin = toBits keyB ∧ t.dout = s.dout ∧ t.ov = s.ov

/-- 30_encoding.md section 5 and 00_scope.md section 5.1: the command word that each line of a host script writes, the script that
a pseudo-instruction stands for, and the bits of a hexadecimal operand, 4 for each digit, most significant first. -/
def Obligations.ScriptLinesAreHostActions : Prop :=
  (∀ b : Bank,
    assemble (.expand b) = [.writeCmd (0x01 + 8 * b.bit.setWidth 8)] ∧
    assemble (.enc b) = [.writeCmd (0x02 + 8 * b.bit.setWidth 8)] ∧
    assemble (.dec b) = [.writeCmd (0x03 + 8 * b.bit.setWidth 8)]) ∧
  assemble .tenc = [.writeCmd 0x04] ∧ assemble .tdec = [.writeCmd 0x05] ∧
  (∀ key blk : List (BitVec 4),
    assemble (.desEnc key blk) = [.key key, .expand .bank0, .blk blk, .enc .bank0, .out].flatMap assemble ∧
    assemble (.desDec key blk) = [.key key, .expand .bank0, .blk blk, .dec .bank0, .out].flatMap assemble ∧
    assemble (.tdesEnc key blk) = [.key key, .blk blk, .tenc, .out].flatMap assemble ∧
    assemble (.tdesDec key blk) = [.key key, .blk blk, .tdec, .out].flatMap assemble ∧
    assemble (.tdesLoad key) =
      [.key (key.take 16), .expand .bank0, .key (key.drop 16), .expand .bank1].flatMap assemble) ∧
  ∀ (digits : List (BitVec 4)) (k : Fin digits.length) (j : Nat), 1 ≤ j → j ≤ 4 →
    (bitsOfHex digits).length = 4 * digits.length ∧
    (bitsOfHex digits)[4 * k.val + j - 1]? = some (digits[k].getLsbD (4 - j))
end

