-- ==== Sys2Proof/Laws/Bits.lean ====
section
/-! SUPPORT. What the micro-operations on bit sequences do, bit by bit: the one lemma per operation that later proofs cite. -/

namespace Sys2Proof.Machine

/-- The value of a sequence with one more bit at its end. -/
theorem bitsValue_concat (l : Bits) (b : Bool) : bitsValue (l ++ [b]) = 2 * bitsValue l + b.toNat := by
  simp [bitsValue]

/-- Bit `i` from the front of a sequence is bit `length - 1 - i` of its value. -/
theorem testBit_bitsValue (l : Bits) :
    ∀ i, i < l.length → (bitsValue l).testBit (l.length - 1 - i) = l[i]?.getD false := by
  induction l using List.reverseRecOn with
  | nil => intro i h; simp at h
  | append_singleton l b ih =>
    intro i h
    rw [bitsValue_concat]
    simp only [List.length_append, List.length_cons, List.length_nil] at h ⊢
    rcases Nat.lt_or_ge i l.length with hi | hi
    · have hdiv : (2 * bitsValue l + b.toNat) / 2 = bitsValue l := by cases b <;> simp <;> omega
      rw [show l.length + (0 + 1) - 1 - i = (l.length - 1 - i) + 1 by omega, Nat.testBit_succ, hdiv, ih i hi,
        List.getElem?_append_left hi]
    · obtain rfl : i = l.length := by omega
      rw [show l.length + (0 + 1) - 1 - l.length = 0 by omega, Nat.testBit_zero]
      cases b <;> simp

/-- Bit `i` (from 0) of a sequence taken as a vector of its own width. -/
theorem getMsbD_ofBits {w : Nat} {l : Bits} (hl : l.length = w) {i : Nat} (hi : i < w) :
    (ofBits w l).getMsbD i = l[i]?.getD false := by
  subst hl
  rw [ofBits, BitVec.getMsbD_eq_getLsbD, BitVec.getLsbD_ofNat, testBit_bitsValue l i hi]
  simp [hi]
  omega

@[simp] theorem length_toBits {w : Nat} (x : BitVec w) : (toBits x).length = w := by simp [toBits]

theorem getElem?_toBits {w : Nat} (x : BitVec w) {i : Nat} (hi : i < w) : (toBits x)[i]? = some (x.getMsbD i) := by
  simp [toBits, hi]

/-- Two vectors with the same bits from the front are equal. -/
theorem eq_of_getMsbD {w : Nat} {x y : BitVec w} (h : ∀ i, i < w → x.getMsbD i = y.getMsbD i) : x = y :=
  BitVec.eq_of_getMsbD_eq h

@[simp] theorem ofBits_toBits {w : Nat} (x : BitVec w) : ofBits w (toBits x) = x :=
  eq_of_getMsbD fun i hi => by rw [getMsbD_ofBits (length_toBits x) hi, getElem?_toBits x hi, Option.getD_some]

theorem toBits_ofBits {w : Nat} {l : Bits} (hl : l.length = w) : toBits (ofBits w l) = l := by
  apply List.ext_getElem?
  intro i
  rcases Nat.lt_or_ge i w with hi | hi
  · rw [getElem?_toBits _ hi, getMsbD_ofBits hl hi, List.getElem?_eq_getElem (hl ▸ hi), Option.getD_some]
  · rw [List.getElem?_eq_none (by simpa using hi), List.getElem?_eq_none (by omega)]

/-- `permute(x, T){i} = x{T{i}}`, from 0 on both sides (40_permute_bitvector.md R90). -/
theorem getMsbD_permute {n m : Nat} {t : List Nat} (ht : t.length = m) (x : BitVec n) {i : Nat} (hi : i < m) :
    (permute m t x).getMsbD i = x.getMsbD (memRead t (i + 1) - 1) := by
  rw [permute, getMsbD_ofBits (by simpa using ht) hi, List.getElem?_map, memRead, Nat.add_sub_cancel,
    List.getElem?_eq_getElem (ht ▸ hi)]
  rfl

theorem getMsbD_slice {n : Nat} (x : BitVec n) {i w k : Nat} (hi : 1 ≤ i) (hw : i + w ≤ n + 1) (hk : k < w) :
    (slice x i w).getMsbD k = x.getMsbD (i - 1 + k) := by
  rw [slice, BitVec.getMsbD_eq_getLsbD, BitVec.getLsbD_extractLsb', BitVec.getMsbD_eq_getLsbD]
  have h1 : n + 1 - i - w + (w - 1 - k) = n - 1 - (i - 1 + k) := by omega
  have h2 : w - 1 - k < w := by omega
  have h3 : i - 1 + k < n := by omega
  simp [hk, h1, h2, h3]

/-- A slice of the first part of a joined pair. -/
theorem getMsbD_append {n m : Nat} (x : BitVec n) (y : BitVec m) (i : Nat) :
    (x ++ y).getMsbD i = if i < n then x.getMsbD i else y.getMsbD (i - n) := by
  rw [BitVec.getMsbD_append]
  by_cases h : i < n <;> simp [h]

/-- Split undoes join (40_permute_bitvector.md R95). -/
theorem split_append {h : Nat} (a b : BitVec h) : split h (a ++ b) = (a, b) := by
  ext1
  · refine eq_of_getMsbD fun i hi => ?_
    simp only [split]
    rw [getMsbD_slice _ (by omega) (by omega) hi, getMsbD_append]
    simp [hi]
  · refine eq_of_getMsbD fun i hi => ?_
    simp only [split]
    rw [getMsbD_slice _ (by omega) (by omega) hi, getMsbD_append]
    simp

/-- Join undoes split, for the two widths the engine splits (40_permute_bitvector.md R95). -/
theorem append_split {h : Nat} (x : BitVec (h + h)) : (split h x).1 ++ (split h x).2 = x := by
  refine eq_of_getMsbD fun i hi => ?_
  rw [getMsbD_append]
  simp only [split]
  split
  · rw [getMsbD_slice _ (by omega) (by omega) (by omega)]
    simp
  · rw [getMsbD_slice _ (by omega) (by omega) (by omega)]
    congr 1
    omega

end Sys2Proof.Machine
end

