-- ==== Sys2Proof/Laws/State.lean ====
section
/-! SUPPORT. The fields of State after each of its updates, one lemma a field, so that no later proof unfolds a record update. -/

namespace Sys2Proof.Machine

/-! Taking a fault (60_exceptions.md R183). -/

@[simp] theorem raise_keyin (f : Fault) (s : State) : (raise f s).keyin = s.keyin := rfl
@[simp] theorem raise_din (f : Fault) (s : State) : (raise f s).din = s.din := rfl
@[simp] theorem raise_dout (f : Fault) (s : State) : (raise f s).dout = s.dout := rfl
@[simp] theorem raise_ov (f : Fault) (s : State) : (raise f s).ov = false := rfl
@[simp] theorem raise_ks0 (f : Fault) (s : State) : (raise f s).ks0 = s.ks0 := rfl
@[simp] theorem raise_ks1 (f : Fault) (s : State) : (raise f s).ks1 = s.ks1 := rfl
@[simp] theorem raise_kv0 (f : Fault) (s : State) : (raise f s).kv0 = s.kv0 := rfl
@[simp] theorem raise_kv1 (f : Fault) (s : State) : (raise f s).kv1 = s.kv1 := rfl
@[simp] theorem raise_err (f : Fault) (s : State) : (raise f s).err = faultCode f := rfl
@[simp] theorem raise_es (f : Fault) (s : State) : (raise f s).es = true := rfl
@[simp] theorem raise_tf (f : Fault) (s : State) : (raise f s).tf = s.tf := rfl
@[simp] theorem raise_seq (f : Fault) (s : State) : (raise f s).seq = .idle := rfl
@[simp] theorem raise_work (f : Fault) (s : State) : (raise f s).work = s.work := rfl
@[simp] theorem raise_fresh (f : Fault) (s : State) : (raise f s).fresh = s.fresh := rfl
@[simp] theorem raise_inbox (f : Fault) (s : State) : (raise f s).inbox = s.inbox := rfl
@[simp] theorem raise_reply (f : Fault) (s : State) : (raise f s).reply = s.reply := rfl

/-! The successful end of a command (10_state.md R28, R34). -/

@[simp] theorem retire_keyin (s : State) : (retire s).keyin = s.keyin := rfl
@[simp] theorem retire_din (s : State) : (retire s).din = s.din := rfl
@[simp] theorem retire_dout (s : State) : (retire s).dout = s.dout := rfl
@[simp] theorem retire_ov (s : State) : (retire s).ov = s.ov := rfl
@[simp] theorem retire_ks0 (s : State) : (retire s).ks0 = s.ks0 := rfl
@[simp] theorem retire_ks1 (s : State) : (retire s).ks1 = s.ks1 := rfl
@[simp] theorem retire_kv0 (s : State) : (retire s).kv0 = s.kv0 := rfl
@[simp] theorem retire_kv1 (s : State) : (retire s).kv1 = s.kv1 := rfl
@[simp] theorem retire_err (s : State) : (retire s).err = 0 := rfl
@[simp] theorem retire_es (s : State) : (retire s).es = s.es := rfl
@[simp] theorem retire_tf (s : State) : (retire s).tf = s.tf := rfl
@[simp] theorem retire_seq (s : State) : (retire s).seq = .idle := rfl
@[simp] theorem retire_work (s : State) : (retire s).work = freeWork s.fresh := rfl
@[simp] theorem retire_fresh (s : State) : (retire s).fresh = s.fresh + 1 := rfl
@[simp] theorem retire_inbox (s : State) : (retire s).inbox = s.inbox := rfl
@[simp] theorem retire_reply (s : State) : (retire s).reply = s.reply := rfl

/-! Writing a bank (10_state.md R26). -/

@[simp] theorem loadBank_keyin (b : Bank) (ks : Schedule) (s : State) : (loadBank b ks s).keyin = s.keyin := by cases b <;> rfl
@[simp] theorem loadBank_din (b : Bank) (ks : Schedule) (s : State) : (loadBank b ks s).din = s.din := by cases b <;> rfl
@[simp] theorem loadBank_dout (b : Bank) (ks : Schedule) (s : State) : (loadBank b ks s).dout = s.dout := by cases b <;> rfl
@[simp] theorem loadBank_ov (b : Bank) (ks : Schedule) (s : State) : (loadBank b ks s).ov = s.ov := by cases b <;> rfl
@[simp] theorem loadBank_err (b : Bank) (ks : Schedule) (s : State) : (loadBank b ks s).err = s.err := by cases b <;> rfl
@[simp] theorem loadBank_es (b : Bank) (ks : Schedule) (s : State) : (loadBank b ks s).es = s.es := by cases b <;> rfl
@[simp] theorem loadBank_tf (b : Bank) (ks : Schedule) (s : State) : (loadBank b ks s).tf = s.tf := by cases b <;> rfl
@[simp] theorem loadBank_seq (b : Bank) (ks : Schedule) (s : State) : (loadBank b ks s).seq = s.seq := by cases b <;> rfl
@[simp] theorem loadBank_work (b : Bank) (ks : Schedule) (s : State) : (loadBank b ks s).work = s.work := by cases b <;> rfl
@[simp] theorem loadBank_fresh (b : Bank) (ks : Schedule) (s : State) : (loadBank b ks s).fresh = s.fresh := by cases b <;> rfl
@[simp] theorem loadBank_inbox (b : Bank) (ks : Schedule) (s : State) : (loadBank b ks s).inbox = s.inbox := by cases b <;> rfl
@[simp] theorem loadBank_reply (b : Bank) (ks : Schedule) (s : State) : (loadBank b ks s).reply = s.reply := by cases b <;> rfl

/-- What bank `b` holds once bank `a` was written. -/
theorem bankKeys_loadBank (a b : Bank) (ks : Schedule) (s : State) :
    bankKeys b (loadBank a ks s) = if b = a then ks else bankKeys b s := by
  cases a <;> cases b <;> rfl

/-- The valid flag of bank `b` once bank `a` was written. -/
theorem bankValid_loadBank (a b : Bank) (ks : Schedule) (s : State) :
    bankValid b (loadBank a ks s) = if b = a then true else bankValid b s := by
  cases a <;> cases b <;> rfl

@[simp] theorem bankKeys_loadBank_self (b : Bank) (ks : Schedule) (s : State) : bankKeys b (loadBank b ks s) = ks := by
  simp [bankKeys_loadBank]

@[simp] theorem bankValid_loadBank_self (b : Bank) (ks : Schedule) (s : State) : bankValid b (loadBank b ks s) = true := by
  simp [bankValid_loadBank]

/-! A bank is its two registers, and no other. -/

@[simp] theorem bankKeys_raise (b : Bank) (f : Fault) (s : State) : bankKeys b (raise f s) = bankKeys b s := by cases b <;> rfl
@[simp] theorem bankValid_raise (b : Bank) (f : Fault) (s : State) : bankValid b (raise f s) = bankValid b s := by cases b <;> rfl
@[simp] theorem bankKeys_retire (b : Bank) (s : State) : bankKeys b (retire s) = bankKeys b s := by cases b <;> rfl
@[simp] theorem bankValid_retire (b : Bank) (s : State) : bankValid b (retire s) = bankValid b s := by cases b <;> rfl

/-! Reset as a host action (70_reset_and_hazards.md R200). -/

@[simp] theorem resetEngine_keyin (s : State) : (resetEngine s).keyin = State.reset.keyin := rfl
@[simp] theorem resetEngine_din (s : State) : (resetEngine s).din = State.reset.din := rfl
@[simp] theorem resetEngine_dout (s : State) : (resetEngine s).dout = State.reset.dout := rfl
@[simp] theorem resetEngine_ov (s : State) : (resetEngine s).ov = State.reset.ov := rfl
@[simp] theorem resetEngine_ks0 (s : State) : (resetEngine s).ks0 = State.reset.ks0 := rfl
@[simp] theorem resetEngine_ks1 (s : State) : (resetEngine s).ks1 = State.reset.ks1 := rfl
@[simp] theorem resetEngine_kv0 (s : State) : (resetEngine s).kv0 = State.reset.kv0 := rfl
@[simp] theorem resetEngine_kv1 (s : State) : (resetEngine s).kv1 = State.reset.kv1 := rfl
@[simp] theorem resetEngine_err (s : State) : (resetEngine s).err = State.reset.err := rfl
@[simp] theorem resetEngine_es (s : State) : (resetEngine s).es = State.reset.es := rfl
@[simp] theorem resetEngine_tf (s : State) : (resetEngine s).tf = State.reset.tf := rfl
@[simp] theorem resetEngine_seq (s : State) : (resetEngine s).seq = State.reset.seq := rfl
@[simp] theorem resetEngine_work (s : State) : (resetEngine s).work = State.reset.work := rfl
@[simp] theorem resetEngine_fresh (s : State) : (resetEngine s).fresh = s.fresh := rfl
@[simp] theorem resetEngine_inbox (s : State) : (resetEngine s).inbox = s.inbox := rfl
@[simp] theorem resetEngine_reply (s : State) : (resetEngine s).reply = State.reset.reply := rfl

/-! Writing an operand register that the width fits (10_state.md R22, R23). -/

/-- A sequence within OPERAND_MAX_BITS replaces the whole content. -/
theorem writeKey_fits (bits : Bits) (s : State) (h : bits.length ≤ Config.operandMaxBits) :
    writeKey bits s = { s with keyin := bits } := by
  simp [writeKey, h]

/-- A longer sequence is refused. -/
theorem writeKey_refused (bits : Bits) (s : State) (h : Config.operandMaxBits < bits.length) :
    writeKey bits s = { s with reply := .refused } := by
  simp [writeKey, Nat.not_le.mpr h]

/-- A sequence within OPERAND_MAX_BITS replaces the whole content. -/
theorem writeBlock_fits (bits : Bits) (s : State) (h : bits.length ≤ Config.operandMaxBits) :
    writeBlock bits s = { s with din := bits } := by
  simp [writeBlock, h]

/-- A longer sequence is refused. -/
theorem writeBlock_refused (bits : Bits) (s : State) (h : Config.operandMaxBits < bits.length) :
    writeBlock bits s = { s with reply := .refused } := by
  simp [writeBlock, Nat.not_le.mpr h]

/-- OPERAND_MAX_BITS is at least 128 (00_scope.md R12). -/
theorem le_operandMaxBits {n : Nat} (h : n ≤ 128) : n ≤ Config.operandMaxBits := Nat.le_trans h (Nat.le_add_right _ _)

end Sys2Proof.Machine
end

