-- ==== Sys2Proof/Laws/Sequencer.lean ====
section
/-! SUPPORT. What a command's path does, as one equation each: the phases of Machine/Sequencer.lean come to the functions of
Machine/Cipher.lean (10_state.md R34). Later proofs cite these and do not walk the phases again. -/

namespace Sys2Proof.Machine

theorem runPath_append (T : Tables) (p q : List Transition) (s : State) :
    runPath T (p ++ q) s = runPath T q (runPath T p s) := List.foldl_append

theorem runPath_cons (T : Tables) (t : Transition) (p : List Transition) (s : State) :
    runPath T (t :: p) s = runPath T p (enter T t s) := rfl

theorem runPath_nil (T : Tables) (s : State) : runPath T [] s = s := rfl

theorem rounds_eq : rounds = List.range' 1 16 := rfl

@[simp] theorem subkeyAt_expand (T : Tables) (key : Key64) {n : Nat} (h1 : 1 ≤ n) (h16 : n ≤ 16) :
    subkeyAt (expand T key) n = roundKey T key n := by
  have hlt : n - 1 < 16 := by omega
  simp only [subkeyAt, expand, Vector.getElem?_eq_getElem hlt, Vector.getElem_ofFn, Option.getD_some]
  rw [Nat.sub_add_cancel h1]

/-- After the first `n` rounds of the key schedule (41_key_schedule.md R112, R113). -/
theorem runPath_ksRounds (T : Tables) (key : Key64) (s : State) (h0 : (s.work.c, s.work.d) = keyState T key 0) :
    ∀ n, n ≤ 16 → ∃ w q, runPath T ((List.range' 1 n).map .ksRound) s = { s with work := w, seq := q } ∧
      (w.c, w.d) = keyState T key n ∧ ∀ i (_ : i < n), w.held[i]? = some (roundKey T key (i + 1)) := by
  intro n
  induction n with
  | zero => intro _; exact ⟨s.work, s.seq, rfl, h0, by simp⟩
  | succ n ih =>
    intro hn
    obtain ⟨w, q, hrun, hcd, hheld⟩ := ih (by omega)
    have hc : w.c = (keyState T key n).1 := congrArg Prod.fst hcd
    have hd : w.d = (keyState T key n).2 := congrArg Prod.snd hcd
    rw [List.range'_1_concat, List.map_append, runPath_append, hrun, Nat.add_comm 1 n]
    refine ⟨_, _, rfl, ?_, fun i hi => ?_⟩
    · simp [keyState, hc, hd]
    · show (w.held.setIfInBounds n _)[i]? = _
      rcases Nat.lt_or_ge i n with hlt | hge
      · rw [Vector.getElem?_setIfInBounds_ne (by omega), hheld i hlt]
      · obtain rfl : i = n := by omega
        rw [Vector.getElem?_setIfInBounds_self_of_lt (by omega)]
        simp [roundKey, keyState, hc, hd]

/-- One key schedule writes `expand` of its key to its bank, and the working registers (41_key_schedule.md R114, R115). -/
theorem runPath_schedulePath (T : Tables) (b : Bank) (src : KeySource) (s : State) :
    ∃ w, runPath T (schedulePath b src) s =
      { loadBank b (expand T (keyFrom src s)) s with work := w, seq := .ksDone } := by
  obtain ⟨w, q, hrun, -, hheld⟩ :=
    runPath_ksRounds T (keyFrom src s) (enterKsPc1Applied T (enterKsInit src s)) rfl 16 (Nat.le_refl _)
  have hk : w.held = expand T (keyFrom src s) := by
    refine Vector.ext fun i hi => ?_
    have := hheld i hi
    rw [Vector.getElem?_eq_getElem hi, Option.some.injEq] at this
    rw [this, expand, Vector.getElem_ofFn]
  refine ⟨w, ?_⟩
  rw [schedulePath, rounds_eq, runPath_append, runPath_append,
    show runPath T [.ksInit src, .ksPc1Applied] s = enterKsPc1Applied T (enterKsInit src s) from rfl, hrun, ← hk]
  cases b <;> rfl

/-- After the first `n` rounds of a pass (43_feistel_des.md R148, R149). -/
theorem runPath_rounds (T : Tables) (s : State) :
    ∀ n, ∃ w q, runPath T ((List.range' 1 n).map .round) s = { s with work := w, seq := q } ∧
      (w.l, w.r) = feistel T (bankKeys s.work.kb s) s.work.dir (s.work.l, s.work.r) n ∧
      w.kb = s.work.kb ∧ w.dir = s.work.dir := by
  intro n
  induction n with
  | zero => exact ⟨s.work, s.seq, rfl, rfl, rfl, rfl⟩
  | succ n ih =>
    obtain ⟨w, q, hrun, hlr, hkb, hdir⟩ := ih
    rw [List.range'_1_concat, List.map_append, runPath_append, hrun, Nat.add_comm 1 n]
    refine ⟨_, _, rfl, ?_, hkb, hdir⟩
    show feistelRound T (selectKey (bankKeys w.kb { s with work := w, seq := q }) w.dir (n + 1)) (w.l, w.r) = _
    rw [hlr, hkb, hdir, feistel]
    cases s.work.kb <;> rfl

/-- One pass leaves `desPass` of its block, bank and direction in OUTV (43_feistel_des.md R146, R155). -/
theorem runPath_passPath (T : Tables) (pass : PassNo) (kb : Bank) (dir : Dir) (src : BlockSource) (s : State) :
    ∃ w, runPath T (passPath pass kb dir src) s = { s with work := w, seq := .ipInvApplied } ∧
      w.outv = desPass T (blockFrom src s) (bankKeys kb s) dir := by
  obtain ⟨w, q, hrun, hlr, -, -⟩ := runPath_rounds T (enterIpApplied T (enterInit pass kb dir src s)) 16
  have hl : (w.l, w.r) = feistel T (bankKeys kb s) dir (split 32 (permute 64 T.ip (blockFrom src s))) 16 := by
    rw [hlr]; cases kb <;> rfl
  refine ⟨{ w with pre := w.r ++ w.l, outv := permute 64 T.ipinv (w.r ++ w.l) }, ?_, ?_⟩
  · rw [passPath, rounds_eq, runPath_append, runPath_append,
      show runPath T [.init pass kb dir src, .ipApplied] s = enterIpApplied T (enterInit pass kb dir src s) from rfl, hrun]
    rfl
  · show permute 64 T.ipinv (w.r ++ w.l) = _
    rw [desPass, ← hl]

/-- The state that the end of EXPAND b leaves (41_key_schedule.md R110). -/
theorem retire_expand (b : Bank) (s : State) :
    retire (runPath tables (commandPath (.expand b)) s) =
      { loadBank b (expand tables (keyFrom .whole s)) s with
        err := 0, seq := .idle, work := freeWork s.fresh, fresh := s.fresh + 1 } := by
  obtain ⟨w, h⟩ := runPath_schedulePath tables b .whole s
  simp only [commandPath, h, retire]
  cases b <;> rfl

/-- The state that the end of one pass into DOUT leaves (43_feistel_des.md R152 to R154). -/
theorem retire_pass (b : Bank) (dir : Dir) (s : State) :
    retire (runPath tables (passPath .one b dir .din ++ [.doneToDout]) s) =
      { s with
        dout := desPass tables (blockFrom .din s) (bankKeys b s) dir, ov := true,
        err := 0, seq := .idle, work := freeWork s.fresh, fresh := s.fresh + 1 } := by
  obtain ⟨w, h, hout⟩ := runPath_passPath tables .one b dir .din s
  rw [runPath_append, h, ← hout]
  rfl

/-- The state that the end of three passes into DOUT leaves, whatever the directions (44_triple_des.md R168). -/
theorem runPath_threePasses (T : Tables) (outer inner : Dir) (s : State) :
    ∃ w, runPath T (threePasses outer inner) s =
      { s with
        dout := desPass T (desPass T (desPass T (blockFrom .din s) s.ks0 outer) s.ks1 inner) s.ks0 outer, ov := true,
        err := 0, work := w, seq := .done } := by
  obtain ⟨w1, h1, o1⟩ := runPath_passPath T .one .bank0 outer .din s
  obtain ⟨w2, h2, o2⟩ := runPath_passPath T .two .bank1 inner .t (enterDoneToT { s with work := w1, seq := .ipInvApplied })
  obtain ⟨w3, h3, o3⟩ := runPath_passPath T .three .bank0 outer .t
    (enterDoneToT { (enterDoneToT { s with work := w1, seq := .ipInvApplied }) with work := w2, seq := .ipInvApplied })
  refine ⟨w3, ?_⟩
  have e3 : w3.outv = desPass T (desPass T (desPass T (blockFrom .din s) s.ks0 outer) s.ks1 inner) s.ks0 outer := by
    rw [o3]
    show desPass T w2.outv s.ks0 outer = _
    rw [o2]
    show desPass T (desPass T w1.outv s.ks1 inner) s.ks0 outer = _
    rw [o1]; rfl
  simp only [threePasses, runPath_append, runPath_cons, runPath_nil, enter, h1, h2, h3]
  rw [← e3]; rfl

/-- The state that the end of TENC or TDEC leaves (44_triple_des.md R165 to R168). -/
theorem retire_triple (outer inner : Dir) (s : State) :
    retire (runPath tables (schedulePath .bank0 .keyA ++ schedulePath .bank1 .keyB ++ threePasses outer inner) s) =
      { s with
        ks0 := expand tables (keyFrom .keyA s), kv0 := true, ks1 := expand tables (keyFrom .keyB s), kv1 := true,
        dout := desPass tables (desPass tables (desPass tables (blockFrom .din s) (expand tables (keyFrom .keyA s)) outer)
          (expand tables (keyFrom .keyB s)) inner) (expand tables (keyFrom .keyA s)) outer,
        ov := true, err := 0, seq := .idle, work := freeWork s.fresh, fresh := s.fresh + 1 } := by
  obtain ⟨w1, h1⟩ := runPath_schedulePath tables .bank0 .keyA s
  rw [runPath_append, runPath_append, h1]
  obtain ⟨w2, h2⟩ := runPath_schedulePath tables .bank1 .keyB
    { loadBank .bank0 (expand tables (keyFrom .keyA s)) s with work := w1, seq := .ksDone }
  rw [h2]
  simp only [loadBank, keyFrom]
  obtain ⟨w3, h3⟩ := runPath_threePasses tables outer inner
    { s with
      ks0 := expand tables (ofBits 64 (s.keyin.take 64)), kv0 := true
      ks1 := expand tables (ofBits 64 (s.keyin.drop 64)), kv1 := true
      seq := .ksDone, work := w2 }
  rw [h3]
  simp only [retire, blockFrom]

end Sys2Proof.Machine
end

