-- ==== Sys2Proof/Laws/Commands.lean ====
section
/-! SUPPORT. What the checks and the shape of a command can do, once for all five commands (60_exceptions.md R182, R183). -/

namespace Sys2Proof.Machine

theorem firstFault_cons_some (f : Fault) (cs : List (Option Fault)) : firstFault (some f :: cs) = some f := rfl

theorem firstFault_cons_none (cs : List (Option Fault)) : firstFault (none :: cs) = firstFault cs := rfl

theorem firstFault_nil : firstFault [] = none := rfl

theorem checkTables_of_true {s : State} (h : s.tf = true) : checkTables s = some .invalidTableIndex := by
  simp [checkTables, h]

theorem checkTables_of_false {s : State} (h : s.tf = false) : checkTables s = none := by simp [checkTables, h]

theorem checkKey_of_ne {n : Nat} {s : State} (h : s.keyin.length ≠ n) :
    checkKey n s = some (.invalidInputLength .key) := by simp [checkKey, h]

theorem checkKey_of_eq {n : Nat} {s : State} (h : s.keyin.length = n) : checkKey n s = none := by simp [checkKey, h]

theorem checkBlock_of_ne {s : State} (h : s.din.length ≠ 64) : checkBlock s = some (.invalidInputLength .block) := by
  simp [checkBlock, h]

theorem checkBlock_of_eq {s : State} (h : s.din.length = 64) : checkBlock s = none := by simp [checkBlock, h]

theorem checkBank_of_false {b : Bank} {s : State} (h : bankValid b s = false) :
    checkBank b s = some (.keyNotLoaded b) := by simp [checkBank, h]

theorem checkBank_of_true {b : Bank} {s : State} (h : bankValid b s = true) : checkBank b s = none := by
  simp [checkBank, h]

/-- A command whose checks fail takes the fault of the first one that does. -/
theorem runCommand_of_fault {checks : List (Option Fault)} {path : List Transition} {s : State} {f : Fault}
    (h : firstFault checks = some f) : runCommand checks path s = .next (raise f s) := by
  simp [runCommand, h]

/-- A command whose checks pass walks its path and ends. -/
theorem runCommand_of_pass {checks : List (Option Fault)} {path : List Transition} {s : State}
    (h : firstFault checks = none) : runCommand checks path s = .next (retire (runPath tables path s)) := by
  simp [runCommand, h]

/-- Whatever a command does, it takes a fault or it ends. -/
theorem runCommand_cases (checks : List (Option Fault)) (path : List Transition) (s : State) :
    (∃ f, firstFault checks = some f ∧ runCommand checks path s = .next (raise f s)) ∨
      (firstFault checks = none ∧ runCommand checks path s = .next (retire (runPath tables path s))) := by
  cases h : firstFault checks with
  | some f => exact .inl ⟨f, rfl, runCommand_of_fault h⟩
  | none => exact .inr ⟨rfl, runCommand_of_pass h⟩

end Sys2Proof.Machine
end

