-- ==== Sys2Proof/Laws/PerInstr.lean ====
section
/-! SUPPORT. The family of statements made once per command, about the command as syntax: its fields are well-formed, and its
word holds exactly them (30_encoding.md R70, R71). -/

namespace Sys2Proof.Laws.FieldsInWord

/-- The fields of the command are well-formed, and they are the fields of its word. -/
def Statement (i : Instr) : Prop := i.WellFormed ∧ cmdFields (encode i) = i.fields

theorem expand (b : Bank) : Statement (.expand b) := by cases b <;> exact ⟨by decide, by decide⟩
theorem enc (b : Bank) : Statement (.enc b) := by cases b <;> exact ⟨by decide, by decide⟩
theorem dec (b : Bank) : Statement (.dec b) := by cases b <;> exact ⟨by decide, by decide⟩
theorem tenc : Statement .tenc := ⟨by decide, by decide⟩
theorem tdec : Statement .tdec := ⟨by decide, by decide⟩

end Sys2Proof.Laws.FieldsInWord
end

