-- ==== Sys2Proof/Laws/Tables.lean ====
section
/-! SUPPORT. The lengths of this engine's tables, and the shape check in words of logic (40_permute_bitvector.md R104). -/

namespace Sys2Proof.Machine

@[simp] theorem length_ip : tables.ip.length = 64 := rfl
@[simp] theorem length_ipinv : tables.ipinv.length = 64 := rfl
@[simp] theorem length_e : tables.e.length = 48 := rfl
@[simp] theorem length_p : tables.p.length = 32 := rfl
@[simp] theorem length_pc1 : tables.pc1.length = 56 := rfl
@[simp] theorem length_pc2 : tables.pc2.length = 48 := rfl
@[simp] theorem length_shift : tables.shift.length = 16 := rfl

theorem entriesInRange_iff (n : Nat) (t : List Nat) : entriesInRange n t = true ↔ ∀ v ∈ t, 1 ≤ v ∧ v ≤ n := by
  simp [entriesInRange]

/-- `permute(x, T){i} = x{T{i}}`, from 1 on both sides (40_permute_bitvector.md R90). -/
theorem bit_permute {n m : Nat} {t : List Nat} (ht : t.length = m) (x : BitVec n) {i : Nat} (h1 : 1 ≤ i) (hi : i ≤ m) :
    bit (permute m t x) i = bit x (memRead t i) := by
  have h := getMsbD_permute ht x (i := i - 1) (by omega)
  rwa [Nat.sub_add_cancel h1] at h

/-- Bit `k` of a slice, from 1 (00_scope.md R13). -/
theorem bit_slice {n : Nat} (x : BitVec n) {i w k : Nat} (hi : 1 ≤ i) (hw : i + w ≤ n + 1) (hk : 1 ≤ k) (hkw : k ≤ w) :
    bit (slice x i w) k = bit x (i - 1 + k) := by
  simp only [bit]
  rw [getMsbD_slice x hi hw (by omega)]
  congr 1
  omega

/-- Bit `i` of a rotation, from 0 (40_permute_bitvector.md R94). -/
theorem getMsbD_rotl {n : Nat} (x : BitVec n) (k : Nat) {i : Nat} (hi : i < n) :
    (rotl x k).getMsbD i = x.getMsbD ((i + k) % n) := by
  rw [rotl, BitVec.getMsbD_rotateLeft]
  simp [hi, Nat.add_comm]

end Sys2Proof.Machine
end

