-- ==== Sys2Proof/Tests/Slice0.lean ====
section
/-! SUPPORT. The model's own tests. Expected values are lines of 95_test_vectors.md, named in each docstring; command words are
written out from 30_encoding.md section 1. Below them, for each statement with hypotheses, a witness that meets them. -/

namespace Sys2Proof.Tests

open Sys2Proof.Machine

/-! ## Small states -/

/-- An engine after reset with these operands written. -/
def operands (key blk : Bits) : State := { State.reset with keyin := key, din := blk }

/-- The same with both banks loaded with the schedule of the key of X1. -/
def loaded (blk : Bits) : State :=
  { operands [] blk with
    ks0 := expand tables 0x133457799BBCDFF1, kv0 := true, ks1 := expand tables 0x133457799BBCDFF1, kv1 := true }

/-- An engine after reset with these host actions to come. -/
def awaiting (actions : List HostAction) : State := { State.reset with inbox := actions }

/-- The key and the block of X1, and the composite key of X3. -/
def key1 : Bits := toBits (0x133457799BBCDFF1 : Key64)
def block1 : Bits := toBits (0x0123456789ABCDEF : Block)
def composite : Bits := toBits (0x1122334455667789 : Key64) ++ toBits (0x8798794535213544 : Key64)

/-- The next state, and the state given where there is none. -/
def nextOr (d : State) : Host.Outcome State Fault Refusal → State
  | .next t => t
  | _ => d

/-- The state after a command. -/
def after (i : Instr) (s : State) : State := nextOr s (exec i s)

/-- The engine's answer to its next host action. -/
def answer (s : State) : Reply := (nextOr s (step s)).reply

/-! ## Command words: RSV (4 bits), BANK, OP (3 bits) -/

theorem test_decode_expand : decode 0b0000_0_001 = .ok (.expand .bank0) ∧ decode 0b0000_1_001 = .ok (.expand .bank1) := by
  decide
theorem test_decode_enc : decode 0b0000_0_010 = .ok (.enc .bank0) ∧ decode 0b0000_1_010 = .ok (.enc .bank1) := by decide
theorem test_decode_dec : decode 0b0000_0_011 = .ok (.dec .bank0) ∧ decode 0b0000_1_011 = .ok (.dec .bank1) := by decide
theorem test_decode_tenc : decode 0b0000_0_100 = .ok .tenc := by decide
theorem test_decode_tdec : decode 0b0000_0_101 = .ok .tdec := by decide

/-- E1, E2, E3. -/
theorem test_decode_unknownOp : [0x00#8, 0x06, 0x07, 0x08, 0x0E, 0x0F].map decode =
    List.replicate 6 (.error .unknownOp) := by decide
/-- E4. -/
theorem test_decode_bankNotZero : [0x0C#8, 0x0D].map decode = List.replicate 2 (.error .bankNotZero) := by decide
/-- E5. -/
theorem test_decode_reservedNotZero : [0x11#8, 0x12, 0x81, 0xFF].map decode =
    List.replicate 4 (.error .reservedNotZero) := by decide

/-- The word 0x0A is ENC 1, one word and 8 bits; nothing longer is a command. -/
theorem test_decodeTableWord : decodeTableWord 8 0x0A = some (.enc .bank1) ∧ decodeTableWord 16 0x0A = none := by decide

/-! ## Ill-formed fields, one for each check -/

theorem test_wellFormed_refuses_reserved : ¬ Cmd8.WellFormed { rsv := 1, bank := 0, op := 2 } := by decide
theorem test_wellFormed_refuses_op : ¬ Cmd8.WellFormed { rsv := 0, bank := 1, op := 6 } := by decide
theorem test_wellFormed_refuses_bank : ¬ Cmd8.WellFormed { rsv := 0, bank := 1, op := 4 } := by decide
theorem test_wellFormed_takes_bank : Cmd8.WellFormed { rsv := 0, bank := 1, op := 3 } := by decide

/-! ## The micro-operations -/

/-- P2 and P3. -/
theorem test_permute : permute 3 [1, 1, 8] (0b10110010 : BitVec 8) = 0b110 ∧
    permute 4 [2, 4, 6, 8] (0b10110010 : BitVec 8) = 0b0100 := by decide
/-- P6 and P7. -/
theorem test_permute_faults : permuteChecked (0b10110010 : BitVec 8) [1, 9] = .error .invalidTableIndex ∧
    permuteChecked (0b10110010 : BitVec 8) [0, 1] = .error .invalidTableIndex := by decide
/-- P11 and P12. -/
theorem test_rotl_wraps : rotl (0x8000000 : KeyHalf) 1 = 0x0000001 ∧ rotl (0x8000000 : KeyHalf) 2 = 0x0000002 ∧
    rotl (0x4000000 : KeyHalf) 2 = 0x0000001 := by decide
/-- P15 and P16. -/
theorem test_ip : permute 64 tables.ip (0x0123456789ABCDEF : Block) = 0xCC00CCFFF0AAF0AA ∧
    permute 64 tables.ipinv (0x8000000000000000 : Block) = 0x0000000000000040 := by decide +kernel
/-- S1f, S1g, S2b and S8c: the row is of the outer bits, the column of the inner four. -/
theorem test_sbox : sbox tables 1 0b100000 = 4 ∧ sbox tables 1 0b000001 = 0 ∧ sbox tables 2 0b010001 = 12 ∧
    sbox tables 8 0b010010 = 9 := by decide
/-- F9 and F7. -/
theorem test_roundF : roundF tables 0x12345678 0x0123456789AB = 0xCA23B070 ∧
    roundF tables 0x00000001 0x000000000000 = 0xD05AD19C := by decide +kernel

/-! ## The commands -/

/-- X2 and line K1: the first and the last subkey in the bank. -/
theorem test_expand : (after (.expand .bank1) (operands key1 [])).ks1[0] = 0x1B02EFFC7072 ∧
    (after (.expand .bank1) (operands key1 [])).ks1[15] = 0xCB3D8B0E17F5 ∧
    statusWord (after (.expand .bank1) (operands key1 [])) = 0x02 := by decide +kernel
/-- V4 (a key of 56 bits) and V6 (a composite key). -/
theorem test_expand_width : statusWord (after (.expand .bank0) (operands (key1.take 56) [])) = 0x18 ∧
    statusWord (after (.expand .bank0) (operands composite [])) = 0x18 := by decide +kernel

/-- X1. -/
theorem test_enc : (after (.enc .bank0) (loaded block1)).dout = 0x85E813540F0AB405 := by decide +kernel
/-- V1 (an empty bank) and V12 (the width is checked before the bank). -/
theorem test_enc_faults : statusWord (after (.enc .bank0) (operands [] block1)) = 0x48 ∧
    statusWord (after (.enc .bank0) (operands [] (block1.take 63))) = 0x28 := by decide +kernel

/-- D1: DEC is not ENC. -/
theorem test_dec : (after (.dec .bank1) (loaded block1)).dout = 0xEE0F7C12E0B09338 := by decide +kernel
/-- V11 and V13. -/
theorem test_dec_faults :
    statusWord (after (.dec .bank1) { operands [] (block1 ++ [false]) with kv1 := true }) = 0x2A ∧
    statusWord (after (.dec .bank1) { operands [] block1 with kv0 := true }) = 0x49 := by decide +kernel

/-- T1: keyA in passes 1 and 3 and keyB in pass 2, and the last subkey of each bank. -/
theorem test_tenc : (after .tenc (operands composite (toBits (0x1234567890ABCDEF : Block)))).dout = 0x3A3ACE650DB3BBDC ∧
    (after .tenc (operands composite (toBits (0x1234567890ABCDEF : Block)))).ks0[15] = 0x291E82A34380 ∧
    (after .tenc (operands composite (toBits (0x1234567890ABCDEF : Block)))).ks1[15] = 0x8104D695880C := by decide +kernel
/-- V7 (a 64-bit key is never doubled) and V9 (a good key with a bad block leaves the banks empty). -/
theorem test_tenc_faults : statusWord (after .tenc (operands key1 block1)) = 0x18 ∧
    statusWord (after .tenc (operands composite (block1.take 63))) = 0x28 := by decide +kernel

/-- T1: TDEC of a block that TENC did not make. -/
theorem test_tdec : (after .tdec (operands composite (toBits (0x1234567890ABCDEF : Block)))).dout = 0x9A7ABCDCE33FAE8C := by
  decide +kernel
/-- V8 (a key of 192 bits), and the order of V10 for TDEC. -/
theorem test_tdec_faults : statusWord (after .tdec (operands (composite ++ key1) block1)) = 0x18 ∧
    statusWord (after .tdec (operands key1 [])) = 0x18 := by decide +kernel

/-- V16: with TF = 1 a good EXPAND faults with code 3, and an illegal word with code 5. -/
theorem test_tableFault : (after (.expand .bank0) { operands key1 [] with tf := true }).err = 3 ∧
    (nextOr State.reset (step { awaiting [.writeCmd 0x00] with tf := true })).err = 5 := by decide +kernel

/-! ## The host's actions -/

/-- The first lines of Programs 1 and 3, and 60_exceptions.md R185. -/
theorem test_answers_after_reset : answer (awaiting [.readStatus]) = .status 0x00 ∧
    answer (awaiting [.readOut]) = .refused ∧ answer (awaiting [.readSubkey 0 1]) = .refused ∧
    answer (awaiting [.readCmd]) = .refused := by decide +kernel
/-- Line K1, and Program 3's refusal of subkey 17. -/
theorem test_readSubkey : answer { loaded [] with inbox := [.readSubkey 1 16] } = .subkey 0xCB3D8B0E17F5 ∧
    answer { loaded [] with inbox := [.readSubkey 1 17] } = .refused := by decide +kernel
/-- V14: the fault clears OV, so the result can no longer be read. -/
theorem test_fault_hides_result :
    (nextOr State.reset (step { awaiting [.writeCmd 0x07] with ov := true, dout := 1 })).ov = false ∧
    answer { awaiting [.readOut] with ov := false, dout := 1 } = .refused := by decide +kernel
/-- 70_reset_and_hazards.md R200: Reset empties the operands and clears the flags. -/
theorem test_reset : statusWord (nextOr State.reset (step { loaded block1 with inbox := [.reset], es := true, err := 5 })) = 0 ∧
    (nextOr State.reset (step { loaded block1 with inbox := [.reset] })).din = [] := by decide +kernel
/-- A word that `withFetchWord` places runs in the very next step: EXPAND 0 after reset is V3. -/
theorem test_withFetchWord :
    statusWord (nextOr State.reset (step (State.reset.withFetchWord 8 0x01))) = 0x18 := by decide +kernel

/-! ## Witnesses

For each statement with hypotheses, a concrete state and operands that meet them, at the ends of their ranges; where a
statement has clauses for several cases, one for each. -/

theorem not_ok_of_error {w : BitVec 8} {m : Malformed} (h : decode w = .error m) (i : Instr) : decode w ≠ .ok i := by
  simp [h]

theorem length_key1 : key1.length = 64 := length_toBits _
theorem length_block1 : block1.length = 64 := length_toBits _
theorem length_composite : composite.length = 128 := by simp [composite]
theorem reset_tf : State.reset.tf = false := by decide +kernel

theorem tenc_passes (s : State) (ht : s.tf = false) (hk : s.keyin.length = 128) (hd : s.din.length = 64) :
    ∃ t, exec .tenc s = .next t :=
  ⟨_, runCommand_of_pass (checks := [checkTables s, checkKey 128 s, checkBlock s]) (by
    rw [checkTables_of_false ht, checkKey_of_eq hk, checkBlock_of_eq hd]; rfl)⟩

theorem witness_DecodeAndEncodeAgree : decode 0x01 = .ok (.expand .bank0) ∧ decode 0x0B = .ok (.dec .bank1) := by decide

theorem witness_IllegalWordIsInvalidCommand :
    (awaiting [.writeCmd 0x07]).inbox = [.writeCmd 0x07] ∧ ∀ i, decode 0x07 ≠ .ok i :=
  ⟨rfl, not_ok_of_error (m := .unknownOp) (by decide)⟩

theorem witness_StepRunsTheDecodedCommand :
    (awaiting [.writeCmd 0x0A, .readOut]).inbox = .writeCmd 0x0A :: [.readOut] ∧ decode 0x0A = .ok (.enc .bank1) := by decide

theorem witness_ResetLeavesAnEmptyEngine :
    State.reset ∈ [State.reset] ∧ ({ loaded block1 with inbox := [.reset, .readOut] } : State).inbox = [.reset, .readOut] :=
  ⟨List.mem_singleton.2 rfl, rfl⟩

/-- One state for each sticky flag at once. -/
theorem witness_OnlyResetClearsStickyFlags : ∃ s t : State,
    s.inbox.head? ≠ some .reset ∧ step s = .next t ∧ s.kv0 = true ∧ s.kv1 = true ∧ s.es = true :=
  ⟨{ loaded [] with es := true, inbox := [.readStatus] }, _, by decide, rfl, rfl, rfl, rfl⟩

theorem witness_StatusIsAViewOfTheFlags : (awaiting [.readStatus]).inbox = [.readStatus] := rfl

/-- Both sides of the bound, for both registers: 128 bits always fit, and one bit more than the bound never does. -/
theorem witness_OperandWritesReplaceTheRegister :
    (awaiting [.writeKey composite]).inbox = [.writeKey composite] ∧
    (awaiting [.writeBlock []]).inbox = [.writeBlock []] ∧
    composite.length ≤ Config.operandMaxBits ∧ ([] : Bits).length ≤ Config.operandMaxBits ∧
    (List.replicate Config.operandMaxBits true).length ≤ Config.operandMaxBits ∧
    Config.operandMaxBits < (List.replicate (Config.operandMaxBits + 1) true).length := by
  refine ⟨rfl, rfl, ?_, by simp, by simp, by simp⟩
  rw [length_composite, Config.operandMaxBits]
  omega

theorem witness_CommandsLeaveOperandsAlone :
    (∃ t, exec (.enc .bank0) (loaded block1) = .next t) ∧
    ∃ t, step { loaded block1 with inbox := [.writeCmd 0x0C] } = .next t ∧
      ([.writeCmd 0x0C] : List HostAction).head? ≠ some .reset ∧
      (∀ bits, ([.writeCmd 0x0C] : List HostAction).head? ≠ some (.writeKey bits)) ∧
      ∀ bits, ([.writeCmd 0x0C] : List HostAction).head? ≠ some (.writeBlock bits) :=
  ⟨⟨_, rfl⟩, _, rfl, by simp, by simp, by simp⟩

/-- A command for each of the outcomes: a bank left alone, EXPAND, TENC. -/
theorem witness_BanksAreWrittenWhole : (∃ t, exec (.enc .bank0) (loaded block1) = .next t) ∧
    (∃ t, exec (.expand .bank0) (operands key1 []) = .next t) ∧ ∃ t, exec .tenc (operands composite block1) = .next t :=
  ⟨⟨_, rfl⟩, ⟨_, rfl⟩, tenc_passes _ reset_tf length_composite length_block1⟩

/-- A result that changes DOUT, and a fault that takes one away. -/
theorem witness_ResultComesFromASuccessfulBlockCommand :
    (after (.enc .bank0) (loaded block1)).dout ≠ (loaded block1).dout ∧
    (∃ t, exec (.enc .bank0) (loaded block1) = .next t) ∧
    ∃ t, exec (.enc .bank0) { operands [] block1 with ov := true } = .next t ∧ t.ov = false :=
  ⟨by decide +kernel, ⟨_, rfl⟩, _, rfl, rfl⟩

/-- Each case of the reads, at the ends of their ranges. -/
theorem witness_ReadsAnswerOrAreRefused :
    ({ awaiting [.readOut] with ov := true } : State).ov = true ∧ (awaiting [.readOut]).ov = false ∧
    (bankOfNumber 0 = some .bank0 ∧ bankValid .bank0 (loaded []) = true ∧ 1 = (0 : Fin 16).val + 1) ∧
    (bankOfNumber 1 = some .bank1 ∧ bankValid .bank1 (loaded []) = true ∧ 16 = (15 : Fin 16).val + 1) ∧
    1 < 2 ∧ 0 < 1 ∧ 16 < 17 ∧ State.reset.kv0 = false ∧ State.reset.kv1 = false ∧
    (awaiting [.readCmd]).inbox = [.readCmd] :=
  ⟨rfl, rfl, ⟨rfl, rfl, rfl⟩, ⟨rfl, rfl, rfl⟩, by decide, by decide, by decide, rfl, rfl, rfl⟩

/-- Two reads, and two engines that share what the second clause names and differ in the rest. -/
theorem witness_ReadsHaveNoSideEffectAndCommandsAreFunctions :
    (∃ t u, step { loaded [] with inbox := [.readSubkey 0 1, .readSubkey 0 1] } = .next t ∧ step t = .next u) ∧
    (∃ t, (∀ w, ([.writeKey key1] : List HostAction).head? ≠ some (.writeCmd w)) ∧
      ([.writeKey key1] : List HostAction).head? ≠ some .reset ∧
      step { loaded [] with inbox := [.writeKey key1] } = .next t) ∧
    ∃ s t s' t' : State, s.keyin = t.keyin ∧ s.din = t.din ∧ s.ks0 = t.ks0 ∧ s.ks1 = t.ks1 ∧ s.kv0 = t.kv0 ∧
      s.kv1 = t.kv1 ∧ s.tf = t.tf ∧ exec (.enc .bank0) s = .next s' ∧ exec (.enc .bank0) t = .next t' ∧
      s.ov ≠ t.ov ∧ s.err ≠ t.err ∧ s.dout ≠ t.dout :=
  ⟨⟨_, _, rfl, rfl⟩, ⟨_, by simp, by simp, rfl⟩, loaded block1, { loaded block1 with ov := true, err := 5, es := true, dout := 1 },
    _, _, rfl, rfl, rfl, rfl, rfl, rfl, rfl, rfl, rfl, by decide, by decide, by decide⟩

/-- The first and the last bit of a byte and of a register. -/
theorem witness_OperandsAreBigEndianMsbFirst :
    (bitsOfBytes [0x80, 0x01])[0]? = some true ∧ (bitsOfBytes [0x80, 0x01])[15]? = some true ∧ block1.length = 64 ∧
    (ofBits 64 (toBits (0x8000000000000000 : Block))).getLsbD 63 = true := by decide +kernel

theorem witness_CompositeKeySplitsByPosition : (operands composite []).keyin.length = 128 ∧
    keyFrom .keyA (operands composite []) = 0x1122334455667789 ∧
    keyFrom .keyB (operands composite []) = 0x8798794535213544 := by decide +kernel

theorem witness_PermuteSelectsByTable : ∀ v ∈ [8, 1], 1 ≤ v ∧ v ≤ 8 := by decide

/-- An entry below and an entry above the range, and tables that pass the check. -/
theorem witness_PermuteFaultsOnABadEntry :
    (∃ v ∈ [0, 1], v < 1 ∨ 8 < v) ∧ (∃ v ∈ [1, 9], v < 1 ∨ 8 < v) ∧ shapesOk tables = true :=
  ⟨⟨0, by simp, by decide⟩, ⟨9, by simp, by decide⟩, by decide +kernel⟩

theorem witness_PermuteIdentityAndComposition :
    [8, 7, 6].length = 3 ∧ [3, 1].length = 2 ∧ ∀ v ∈ [3, 1], 1 ≤ v ∧ v ≤ 3 := by decide

/-- The first and the last bit, and the least and the greatest rotation that moves a bit; P13. -/
theorem witness_RotateLeftWrapsAround : 0 < 1 ∧ 1 < 28 ∧ 0 < 27 ∧ 27 < 28 ∧
    bit (rotl (0x0000001 : KeyHalf) 1) 27 = bit (0x0000001 : KeyHalf) ((27 - 1 + 1) % 28 + 1) ∧
    bit (rotl (0x8000000 : KeyHalf) 1) 28 = bit (0x8000000 : KeyHalf) ((28 - 1 + 1) % 28 + 1) := by decide

/-- The ends of each half and of the first and the last S-box group. -/
theorem witness_SplitAndJoinArePositional :
    bit (split 28 (0x80000000000001 : BitVec (28 + 28))).1 1 = true ∧
    bit (split 28 (0x80000000000001 : BitVec (28 + 28))).2 28 = true ∧
    bit (sboxGroup (0x800000000001 : BitVec 48) 1) 1 = true ∧ bit (sboxGroup (0x800000000001 : BitVec 48) 8) 6 = true := by
  decide

/-- P18: group 1 begins with the last input bit and group 8 ends with the first. -/
theorem witness_ExpansionOverlapsCyclically :
    bit (permute 48 tables.e (0x00000001 : Half)) (6 * (1 - 1) + 1) = true ∧ (4 * 1 + 1 + 26) % 32 + 1 = 32 ∧
    bit (permute 48 tables.e (0x80000000 : Half)) (6 * (8 - 1) + 6) = true ∧ (4 * 8 + 6 + 26) % 32 + 1 = 1 := by
  decide +kernel

theorem witness_ShapeCheckDecidesTableFault : (awaiting [.reset]).inbox = [.reset] ∧
    ∃ t, (awaiting [.readOut]).inbox.head? ≠ some .reset ∧ step (awaiting [.readOut]) = .next t :=
  ⟨rfl, _, by decide, rfl⟩

/-- A state for each outcome of EXPAND, and two keys that differ in every ignored bit (line K2). -/
theorem witness_ExpandCommand :
    ((operands key1 []).tf = false ∧ (operands key1 []).keyin.length = 64) ∧
    ({ operands key1 [] with tf := true } : State).tf = true ∧
    ((operands composite []).tf = false ∧ (operands composite []).keyin.length ≠ 64) ∧
    ∀ i, 1 ≤ i → i ≤ 64 → i % 8 ≠ 0 → bit (0x133457799BBCDFF1 : Key64) i = bit (0x123456789ABCDEF0 : Key64) i := by
  refine ⟨⟨reset_tf, length_key1⟩, rfl, ⟨reset_tf, by decide +kernel⟩, fun i h1 h2 h3 => ?_⟩
  interval_cases i <;> first | rfl | exact absurd rfl h3

/-- The first and the last round: C1 of X1 is C0 = F0CCAAF rotated by 1, and C16 is C0. -/
theorem witness_KeyScheduleRotations :
    (keyState tables 0x133457799BBCDFF1 1).1 = 0xE19955F ∧ (keyState tables 0x133457799BBCDFF1 16).1 = 0xF0CCAAF := by
  decide +kernel

/-- Line K7: a key with constant halves, one of each kind. -/
theorem witness_KeyScheduleProperties : (keyState tables 0x1F1F1F1F0E0E0E0E 0).1 = 0 ∧
    (keyState tables 0x1F1F1F1F0E0E0E0E 0).2 = BitVec.allOnes 28 ∧
    subkeyAt (expand tables 0x1F1F1F1F0E0E0E0E) 16 = 0x000000FFFFFF := by decide +kernel

theorem witness_ExpandIsVisibleAtOnce : (operands key1 block1).tf = false ∧ (operands key1 block1).keyin.length = 64 ∧
    (operands key1 block1).din.length = 64 := ⟨reset_tf, length_key1, length_block1⟩

/-- The first and the last S-box, with the greatest row and column (S1c and S8a). -/
theorem witness_SboxLookupByRowAndColumn :
    (sbox tables 1 0b111111).toNat = memReadS tables 1 3 15 ∧ (sbox tables 8 0b111111).toNat = memReadS tables 8 3 15 ∧
    memReadS tables 1 3 15 = 13 ∧ memReadS tables 8 3 15 = 11 := by decide

/-- The first and the last S-box in the layer (line F1). -/
theorem witness_SboxLayerWorksGroupByGroup : slice (sboxLayer tables 0) (4 * 1 - 3) 4 = 0xE ∧
    slice (sboxLayer tables 0) (4 * 8 - 3) 4 = 0xD := by decide +kernel

/-- The first and the last bit of F's output and of the S-box input (line F7). -/
theorem witness_RoundFunctionBitByBit :
    bit (roundF tables 0x00000001 0) 1 = bit (sboxLayer tables 0x800000000002) (memRead tables.p 1) ∧
    bit (roundF tables 0x00000001 0) 32 = bit (sboxLayer tables 0x800000000002) (memRead tables.p 32) ∧
    permute 48 tables.e (0x00000001 : Half) ^^^ 0 = 0x800000000002 := by decide +kernel

/-- Each direction, in the first and the last round. -/
theorem witness_RoundTransition : (1 ≤ 1 ∧ 16 ≤ 16) ∧
    ({ State.reset with work := { Work.reset with dir := .enc } } : State).work.dir = .enc ∧
    ({ State.reset with work := { Work.reset with dir := .dec } } : State).work.dir = .dec := by decide

/-- A state for each outcome of ENC. -/
theorem witness_EncCommand :
    ((loaded block1).tf = false ∧ (loaded block1).din.length = 64 ∧ bankValid .bank1 (loaded block1) = true) ∧
    ({ loaded block1 with tf := true } : State).tf = true ∧
    ((loaded []).tf = false ∧ (loaded []).din.length ≠ 64) ∧
    ((operands [] block1).tf = false ∧ (operands [] block1).din.length = 64 ∧
      bankValid .bank0 (operands [] block1) = false) :=
  ⟨⟨reset_tf, length_block1, rfl⟩, rfl, ⟨reset_tf, by decide +kernel⟩, reset_tf, length_block1, rfl⟩

/-- A state for each outcome of DEC. -/
theorem witness_DecCommand :
    ((loaded block1).tf = false ∧ (loaded block1).din.length = 64 ∧ bankValid .bank0 (loaded block1) = true) ∧
    ({ loaded block1 with tf := true } : State).tf = true ∧
    ((loaded (block1 ++ [true])).tf = false ∧ (loaded (block1 ++ [true])).din.length ≠ 64) ∧
    ((operands [] block1).tf = false ∧ (operands [] block1).din.length = 64 ∧
      bankValid .bank1 (operands [] block1) = false) :=
  ⟨⟨reset_tf, length_block1, rfl⟩, rfl, ⟨reset_tf, by decide +kernel⟩, reset_tf, length_block1, rfl⟩

/-- Two engines that share the operands, TF and bank 0 and differ in the rest. -/
theorem witness_BlocksAreIndependent : ∃ s t s' t' : State,
    isBlockCommand (.enc .bank0) = true ∧ s.din = t.din ∧ s.tf = t.tf ∧
    (∀ b, .enc .bank0 = Instr.enc b ∨ .enc .bank0 = Instr.dec b →
      bankValid b s = bankValid b t ∧ (bankValid b s = true → bankKeys b s = bankKeys b t)) ∧
    (.enc .bank0 = Instr.tenc ∨ .enc .bank0 = Instr.tdec → s.keyin = t.keyin) ∧
    exec (.enc .bank0) s = .next s' ∧ exec (.enc .bank0) t = .next t' ∧ s.keyin ≠ t.keyin ∧ s.dout ≠ t.dout ∧ s.kv1 ≠ t.kv1 :=
  ⟨loaded block1, { loaded block1 with keyin := key1, dout := 1, ov := true, kv1 := false }, _, _, rfl, rfl, rfl,
    fun b h => by cases b <;> simp_all [bankValid, bankKeys], fun h => by simp at h, rfl, rfl, by decide, by decide, by decide⟩

/-- The same for a command that takes its keys from KEYIN. -/
theorem witness_BlocksAreIndependent_triple : ∃ s t s' t' : State,
    isBlockCommand .tenc = true ∧ s.din = t.din ∧ s.tf = t.tf ∧
    (∀ b, .tenc = Instr.enc b ∨ .tenc = Instr.dec b →
      bankValid b s = bankValid b t ∧ (bankValid b s = true → bankKeys b s = bankKeys b t)) ∧
    (.tenc = Instr.tenc ∨ .tenc = Instr.tdec → s.keyin = t.keyin) ∧
    exec .tenc s = .next s' ∧ exec .tenc t = .next t' ∧ s.kv0 ≠ t.kv0 := by
  obtain ⟨s', hs⟩ := tenc_passes (operands composite block1) reset_tf length_composite length_block1
  obtain ⟨t', ht⟩ := tenc_passes { operands composite block1 with kv0 := true } reset_tf length_composite length_block1
  exact ⟨operands composite block1, { operands composite block1 with kv0 := true }, s', t', rfl, rfl, rfl, by simp,
    fun _ => rfl, hs, ht, Bool.false_ne_true⟩

/-- A state for each outcome of TENC. -/
theorem witness_TencCommand :
    ((operands composite block1).tf = false ∧ (operands composite block1).keyin.length = 128 ∧
      (operands composite block1).din.length = 64) ∧
    ({ operands composite block1 with tf := true } : State).tf = true ∧
    ((operands key1 block1).tf = false ∧ (operands key1 block1).keyin.length ≠ 128) ∧
    ((operands composite []).tf = false ∧ (operands composite []).keyin.length = 128 ∧
      (operands composite []).din.length ≠ 64) :=
  ⟨⟨reset_tf, length_composite, length_block1⟩, rfl, ⟨reset_tf, by decide +kernel⟩, reset_tf, length_composite, by decide +kernel⟩

/-- A state for each outcome of TDEC. -/
theorem witness_TdecCommand :
    ((operands composite block1).tf = false ∧ (operands composite block1).keyin.length = 128 ∧
      (operands composite block1).din.length = 64) ∧
    ({ operands composite block1 with tf := true } : State).tf = true ∧
    ((operands [] block1).tf = false ∧ (operands [] block1).keyin.length ≠ 128) ∧
    ((operands composite (block1.take 63)).tf = false ∧ (operands composite (block1.take 63)).keyin.length = 128 ∧
      (operands composite (block1.take 63)).din.length ≠ 64) :=
  ⟨⟨reset_tf, length_composite, length_block1⟩, rfl, ⟨reset_tf, by decide +kernel⟩, reset_tf, length_composite, by decide +kernel⟩

theorem witness_TriplePassesRunInOrder : faultMet .tenc (operands composite block1) = none ∧
    faultMet .tdec (operands composite block1) = none := by decide +kernel

/-- Both forms: TENC against ENC and DEC, TDEC against DEC and ENC. -/
theorem witness_TripleEqualsSingleCommands : (∃ (triple : Instr) (outer inner : Bank → Instr), triple = .tenc ∧ outer = .enc ∧ inner = .dec) ∧
    (∃ (triple : Instr) (outer inner : Bank → Instr), triple = .tdec ∧ outer = .dec ∧ inner = .enc) ∧
    (operands composite block1).tf = false ∧ (operands composite block1).keyin.length = 128 ∧
    (operands composite block1).din.length = 64 :=
  ⟨⟨_, _, _, rfl, rfl, rfl⟩, ⟨_, _, _, rfl, rfl, rfl⟩, reset_tf, length_composite, length_block1⟩

/-- Both orders. -/
theorem witness_TripleRoundTrip : (∃ first second : Instr, first = .tenc ∧ second = .tdec) ∧
    (∃ first second : Instr, first = .tdec ∧ second = .tenc) ∧
    (operands composite block1).tf = false ∧ (operands composite block1).keyin.length = 128 ∧
    (operands composite block1).din.length = 64 :=
  ⟨⟨_, _, rfl, rfl⟩, ⟨_, _, rfl, rfl⟩, reset_tf, length_composite, length_block1⟩

theorem witness_EqualHalvesAreSingleDes : (operands (key1 ++ key1) block1).tf = false ∧
    (operands (key1 ++ key1) block1).keyin = toBits (0x133457799BBCDFF1 : Key64) ++ toBits (0x133457799BBCDFF1 : Key64) ∧
    (operands (key1 ++ key1) block1).din.length = 64 := ⟨reset_tf, rfl, length_block1⟩

/-- Every fault that a legal command meets, each behind the checks before it, a command that meets none, and an illegal word. -/
theorem witness_FaultsInPriorityOrder :
    faultMet (.expand .bank0) { State.reset with tf := true } = some .invalidTableIndex ∧
    faultMet .tenc (operands key1 []) = some (.invalidInputLength .key) ∧
    faultMet (.enc .bank0) (operands [] []) = some (.invalidInputLength .block) ∧
    faultMet (.dec .bank1) (operands [] block1) = some (.keyNotLoaded .bank1) ∧
    (faultMet (.enc .bank0) (loaded block1) = none ∧ ∃ t, exec (.enc .bank0) (loaded block1) = .next t) ∧
    ((awaiting [.writeCmd 0xFF]).inbox = [.writeCmd 0xFF] ∧ ∀ i, decode 0xFF ≠ .ok i) ∧
    ∃ t, (loaded block1).ov = false ∧ step { loaded block1 with inbox := [.writeCmd 0x02] } = .next t ∧ t.ov = true :=
  ⟨by decide +kernel, by decide +kernel, by decide +kernel, by decide +kernel, ⟨by decide +kernel, _, rfl⟩,
    ⟨rfl, not_ok_of_error (m := .reservedNotZero) (by decide)⟩, _, rfl, rfl, by decide +kernel⟩

/-- Program 3: TENC faults on a 64-bit key, CMD 07 is no command, and EXPAND meets no fault in the same state. -/
theorem witness_CommandsRunNormallyAfterAFault :
    faultMet .tenc (operands key1 block1) = some (.invalidInputLength .key) ∧ (∀ i, decode 0x07 ≠ .ok i) ∧
    faultMet (.expand .bank0) (operands key1 block1) = none :=
  ⟨by decide +kernel, not_ok_of_error (m := .unknownOp) (by decide), by decide +kernel⟩

/-- A state with a result, both banks, a fault seen earlier, and 128 bits of key. -/
theorem witness_StepKeepsInvariant :
    State.Inv { loaded block1 with keyin := composite, ov := true, dout := 1, es := true, inbox := [.writeCmd 0x0B] } ∧
    ∃ t, step { loaded block1 with
      keyin := composite, ov := true, dout := 1, es := true, inbox := [.writeCmd 0x0B] } = .next t := by
  refine ⟨⟨rfl, by decide, fun _ => rfl, fun _ => rfl, fun _ => .inl rfl, fun _ => ⟨_, rfl⟩, fun _ => ⟨_, rfl⟩, rfl, ?_, ?_⟩,
    _, rfl⟩
  · show composite.length ≤ _
    rw [length_composite, Config.operandMaxBits]
    omega
  · show block1.length ≤ _
    rw [length_block1, Config.operandMaxBits]
    omega

/-- Two engines that differ in DOUT, a bank, the working registers and SEQ, none of which holds a value. -/
theorem witness_ValuelessStateIsNeverObserved : ∃ s t : State,
    s.SameToHost t ∧ s.dout ≠ t.dout ∧ s.ks0 ≠ t.ks0 ∧ s.work ≠ t.work ∧ s.seq ≠ t.seq :=
  ⟨State.reset,
    { State.reset with
      dout := 1, ks0 := Vector.replicate 16 1, work := { Work.reset with l := 1 }, seq := .swapped },
    ⟨rfl, rfl, rfl, (nomatch ·), rfl, (nomatch ·), rfl, (nomatch ·), rfl, rfl, rfl, rfl, rfl⟩,
    by decide, by decide, by decide, by decide⟩

theorem witness_PseudoInstructionsCompute : State.reset.tf = false := reset_tf

/-- 00_scope.md R16: 0x13 as 8 bits is 00010011; its first and last digit, first and last bit. -/
theorem witness_ScriptLinesAreHostActions :
    assemble (.key [0x1, 0x3]) = [.writeKey [false, false, false, true, false, false, true, true]] ∧
    (bitsOfHex [0x1, 0x3])[4 * 0 + 1 - 1]? = some false ∧ (bitsOfHex [0x1, 0x3])[4 * 1 + 4 - 1]? = some true := by decide

end Sys2Proof.Tests
end

section
/-! SUPPORT. The laws that the memory statements (20_memory.md) need beside those of Laws/: bits of an operand counted from 1,
a command as the fault it meets or the end it comes to, and what the host's other actions leave alone. Below them the proofs of
the statements about 20_memory.md. -/

namespace Sys2Proof.Machine

/-! Bits of an operand, counted from 1 (00_scope.md R13, 20_memory.md R52). -/

/-- Bit `i` of a vector is integer bit `w - i` of its value. -/
theorem bit_eq_getLsbD {w : Nat} (x : BitVec w) {i : Nat} (h1 : 1 ≤ i) (hi : i ≤ w) : bit x i = x.getLsbD (w - i) := by
  have hlt : i - 1 < w := by omega
  have hidx : w - 1 - (i - 1) = w - i := by omega
  simp [bit, BitVec.getMsbD_eq_getLsbD, hlt, hidx]

/-- Bit `i` of a sequence taken as a vector of its own width. -/
theorem bit_ofBits {w : Nat} {l : Bits} (hl : l.length = w) {i : Nat} (h1 : 1 ≤ i) (hi : i ≤ w) :
    bit (ofBits w l) i = l[i - 1]?.getD false :=
  getMsbD_ofBits hl (by omega)

/-- Bit `i` of the sequence of a vector. -/
theorem getElem?_toBits_pred {w : Nat} (x : BitVec w) {i : Nat} (h1 : 1 ≤ i) (hi : i ≤ w) :
    (toBits x)[i - 1]? = some (bit x i) :=
  getElem?_toBits x (by omega)

/-- Where every piece has `w` items, item `j` of piece `k` is item `w * k + j` of the joined list. -/
theorem getElem?_flatMap_of_length {α β : Type} {f : α → List β} {w : Nat} (hf : ∀ a, (f a).length = w) {j : Nat}
    (hj : j < w) : ∀ (l : List α) (k : Nat) (hk : k < l.length), (l.flatMap f)[w * k + j]? = (f l[k])[j]?
  | a :: l, 0, _ => by
    rw [List.flatMap_cons, List.getElem?_append_left (by rw [hf]; omega), Nat.mul_zero, Nat.zero_add]
    rfl
  | a :: l, k + 1, hk => by
    have hidx : w * (k + 1) + j - w = w * k + j := by rw [Nat.mul_succ]; omega
    rw [List.flatMap_cons, List.getElem?_append_right (by rw [hf, Nat.mul_succ]; omega), hf, hidx]
    exact getElem?_flatMap_of_length hf hj l k (Nat.lt_of_succ_lt_succ hk)

/-! A command takes the fault that it meets, or walks its path and ends (60_exceptions.md R182, R183). -/

/-- The checks of a command, in their order (60_exceptions.md R182). -/
def commandChecks : Instr → State → List (Option Fault)
  | .expand _, s => [checkTables s, checkKey 64 s]
  | .enc b, s | .dec b, s => [checkTables s, checkBlock s, checkBank b s]
  | .tenc, s | .tdec, s => [checkTables s, checkKey 128 s, checkBlock s]

theorem exec_eq_runCommand (i : Instr) (s : State) : exec i s = runCommand (commandChecks i s) (commandPath i) s := by
  cases i <;> rfl

theorem firstFault_cons_ite (c : Prop) [Decidable c] (f : Fault) (cs : List (Option Fault)) :
    firstFault ((if c then none else some f) :: cs) = if c then firstFault cs else some f := by
  split <;> rfl

/-- The first check that fails is the fault of `faultMet`. -/
theorem firstFault_commandChecks (i : Instr) (s : State) : firstFault (commandChecks i s) = faultMet i s := by
  cases ht : s.tf with
  | true => cases i <;> simp [commandChecks, faultMet, checkTables_of_true ht, firstFault_cons_some, ht]
  | false =>
    cases i with
    | expand _ | tenc | tdec =>
      simp [commandChecks, faultMet, checkTables_of_false ht, firstFault_cons_none, checkKey, checkBlock,
        firstFault_cons_ite, firstFault_nil, ht]
    | enc b | dec b =>
      cases hv : bankValid b s <;>
        simp [commandChecks, faultMet, checkTables_of_false ht, firstFault_cons_none, checkBlock, checkBank,
          firstFault_cons_some, firstFault_cons_ite, firstFault_nil, ht, hv]

theorem exec_of_fault {i : Instr} {s : State} {f : Fault} (h : faultMet i s = some f) : exec i s = .next (raise f s) := by
  rw [exec_eq_runCommand]
  exact runCommand_of_fault (firstFault_commandChecks i s ▸ h)

theorem exec_of_pass {i : Instr} {s : State} (h : faultMet i s = none) :
    exec i s = .next (retire (runPath tables (commandPath i) s)) := by
  rw [exec_eq_runCommand]
  exact runCommand_of_pass (firstFault_commandChecks i s ▸ h)

/-- The end of EXPAND b, as the write of the bank and the end of a command (41_key_schedule.md R110). -/
theorem retire_expand_eq_loadBank (b : Bank) (s : State) :
    retire (runPath tables (commandPath (.expand b)) s) = loadBank b (expand tables (keyFrom .whole s)) (retire s) := by
  rw [retire_expand]
  cases b <;> rfl

theorem exec_expand_of_pass {b : Bank} {s : State} (ht : s.tf = false) (hk : s.keyin.length = 64) :
    exec (.expand b) s = .next (loadBank b (expand tables (ofBits 64 s.keyin)) (retire s)) := by
  rw [exec_of_pass (by simp [faultMet, ht, hk]), retire_expand_eq_loadBank]
  rfl

theorem exec_enc_of_pass {b : Bank} {s : State} (ht : s.tf = false) (hd : s.din.length = 64) (hv : bankValid b s = true) :
    exec (.enc b) s =
      .next (retire { s with dout := desPass tables (ofBits 64 s.din) (bankKeys b s) .enc, ov := true }) := by
  rw [exec_of_pass (by simp [faultMet, ht, hd, hv]), commandPath, retire_pass]
  rfl

theorem exec_dec_of_pass {b : Bank} {s : State} (ht : s.tf = false) (hd : s.din.length = 64) (hv : bankValid b s = true) :
    exec (.dec b) s =
      .next (retire { s with dout := desPass tables (ofBits 64 s.din) (bankKeys b s) .dec, ov := true }) := by
  rw [exec_of_pass (by simp [faultMet, ht, hd, hv]), commandPath, retire_pass]
  rfl

/-! Reading a bank (10_state.md R26, R38). -/

theorem subkeyAt_succ (ks : Schedule) (i : Fin 16) : subkeyAt ks (i.val + 1) = ks[i] := by
  simp [subkeyAt]

theorem subkeyReply_of_valid {m : Nat} {b : Bank} {s : State} (hm : bankOfNumber m = some b) (hv : bankValid b s = true)
    (i : Fin 16) : subkeyReply m (i.val + 1) s = .subkey (bankKeys b s)[i] := by
  have hi : i.val + 1 ≤ 16 := i.isLt
  simp [subkeyReply, hm, hv, hi, subkeyAt_succ]

/-! What a host action that is no command and no reset can do (10_state.md R38): nothing that a read answers is written. -/

/-- The whole of such an action: the operands and the answer, and nothing else of the engine. -/
theorem perform_frame {a : HostAction} {s t : State} (hw : ∀ w, a ≠ .writeCmd w) (hr : a ≠ .reset)
    (h : perform a s = .next t) : ∃ k d r, t = { s with keyin := k, din := d, reply := r } := by
  cases a with
  | reset => exact absurd rfl hr
  | writeCmd w => exact absurd rfl (hw w)
  | writeKey bits | writeBlock bits =>
    cases h
    simp only [writeKey, writeBlock]
    split <;> exact ⟨_, _, _, rfl⟩
  | readStatus | readOut | readSubkey _ _ | readCmd => cases h; exact ⟨_, _, _, rfl⟩

theorem step_of_nil {s : State} (h : s.inbox = []) : step s = .next s := by
  simp [step, takeAction, h]

theorem step_of_cons {s : State} {a : HostAction} {rest : List HostAction} (h : s.inbox = a :: rest) :
    step s = perform a { s with inbox := rest, reply := .silent } := by
  simp [step, takeAction, h]

/-- A step that takes no command and no reset writes the operands and the model's own list and answer only. -/
theorem step_frame {s t : State} (hw : ∀ w, s.inbox.head? ≠ some (.writeCmd w)) (hr : s.inbox.head? ≠ some .reset)
    (h : step s = .next t) : ∃ k d q r, t = { s with keyin := k, din := d, inbox := q, reply := r } := by
  cases hi : s.inbox with
  | nil =>
    rw [step_of_nil hi] at h
    cases h
    exact ⟨_, _, _, _, rfl⟩
  | cons a rest =>
    rw [step_of_cons hi] at h
    obtain ⟨k, d, r, rfl⟩ := perform_frame (by simpa [hi] using hw) (by simpa [hi] using hr) h
    exact ⟨k, d, rest, r, rfl⟩

/-- What a read of a bank gives does not depend on the operands, nor on the model's own list and answer. -/
theorem subkeyReply_frame (b n : Nat) (s : State) (k d : Bits) (q : List HostAction) (r : Reply) :
    subkeyReply b n { s with keyin := k, din := d, inbox := q, reply := r } = subkeyReply b n s := by
  unfold subkeyReply
  cases bankOfNumber b with
  | none => rfl
  | some bk => cases bk <;> rfl

/-- A read's answer is fixed by the engine alone, and the read writes nothing but the answer. -/
theorem step_read {a : HostAction} (ha : a = .readStatus ∨ a = .readOut ∨ ∃ b n, a = .readSubkey b n) (s : State) :
    ∃ r, ∀ rest r₀, step { s with inbox := a :: rest, reply := r₀ } = .next { s with inbox := rest, reply := r } := by
  obtain rfl | rfl | ⟨b, n, rfl⟩ := ha
  · exact ⟨.status (statusWord s), fun _ _ => rfl⟩
  · exact ⟨outReply s, fun _ _ => rfl⟩
  · refine ⟨subkeyReply b n s, fun rest r₀ => ?_⟩
    rw [step_of_cons rfl, perform, subkeyReply_frame b n s s.keyin s.din rest .silent]

/-! Commands as functions of their inputs (20_memory.md R57). -/

/-- The two states give a command the same inputs. -/
structure State.SameInputs (s t : State) : Prop where
  keyin : s.keyin = t.keyin
  din : s.din = t.din
  ks0 : s.ks0 = t.ks0
  ks1 : s.ks1 = t.ks1
  kv0 : s.kv0 = t.kv0
  kv1 : s.kv1 = t.kv1
  tf : s.tf = t.tf

namespace State.SameInputs

theorem bankValid_eq {s t : State} (h : s.SameInputs t) (b : Bank) : bankValid b s = bankValid b t := by
  cases b
  · exact h.kv0
  · exact h.kv1

theorem bankKeys_eq {s t : State} (h : s.SameInputs t) (b : Bank) : bankKeys b s = bankKeys b t := by
  cases b
  · exact h.ks0
  · exact h.ks1

theorem keyFrom_eq {s t : State} (h : s.SameInputs t) (src : KeySource) : keyFrom src s = keyFrom src t := by
  cases src <;> simp only [keyFrom, h.keyin]

theorem blockFrom_din_eq {s t : State} (h : s.SameInputs t) : blockFrom .din s = blockFrom .din t := by
  simp only [blockFrom, h.din]

theorem faultMet_eq {s t : State} (h : s.SameInputs t) (i : Instr) : faultMet i s = faultMet i t := by
  cases i <;> simp only [faultMet, h.tf, h.keyin, h.din, h.bankValid_eq]

end State.SameInputs

/-- The two states after a command show the same fault code and the same banks, and after a block command the same result. -/
structure State.SameOutcome (i : Instr) (s t : State) : Prop where
  err : s.err = t.err
  keys : ∀ b, bankKeys b s = bankKeys b t
  valid : ∀ b, bankValid b s = bankValid b t
  result : isBlockCommand i = true → s.ov = t.ov ∧ (s.ov = true → s.dout = t.dout)

theorem State.SameInputs.sameOutcome_raise {s t : State} (h : s.SameInputs t) (i : Instr) (f : Fault) :
    (raise f s).SameOutcome i (raise f t) where
  err := rfl
  keys b := by rw [bankKeys_raise, bankKeys_raise, h.bankKeys_eq]
  valid b := by rw [bankValid_raise, bankValid_raise, h.bankValid_eq]
  result _ := ⟨rfl, nofun⟩

/-- Each command's end, by the equation for its path: what it writes is made of the inputs alone. -/
theorem State.SameInputs.sameOutcome_retire {s t : State} (h : s.SameInputs t) (i : Instr) :
    (retire (runPath tables (commandPath i) s)).SameOutcome i (retire (runPath tables (commandPath i) t)) := by
  cases i with
  | expand b =>
    rw [retire_expand_eq_loadBank, retire_expand_eq_loadBank, h.keyFrom_eq]
    exact ⟨by simp, fun a => by simp [bankKeys_loadBank, h.bankKeys_eq],
      fun a => by simp [bankValid_loadBank, h.bankValid_eq], nofun⟩
  | enc b | dec b =>
    rw [commandPath, retire_pass, retire_pass, h.blockFrom_din_eq, h.bankKeys_eq]
    exact ⟨rfl, h.bankKeys_eq, h.bankValid_eq, fun _ => ⟨rfl, fun _ => rfl⟩⟩
  | tenc | tdec =>
    rw [commandPath, retire_triple, retire_triple, h.blockFrom_din_eq, h.keyFrom_eq, h.keyFrom_eq]
    refine ⟨rfl, fun b => ?_, fun b => ?_, fun _ => ⟨rfl, fun _ => rfl⟩⟩ <;> cases b <;> rfl

theorem State.SameInputs.sameOutcome_exec {s t s' t' : State} {i : Instr} (h : s.SameInputs t)
    (hs : exec i s = .next s') (ht : exec i t = .next t') : s'.SameOutcome i t' := by
  cases hf : faultMet i s with
  | some f =>
    rw [exec_of_fault hf] at hs
    rw [exec_of_fault (h.faultMet_eq i ▸ hf)] at ht
    cases hs; cases ht
    exact h.sameOutcome_raise i f
  | none =>
    rw [exec_of_pass hf] at hs
    rw [exec_of_pass (h.faultMet_eq i ▸ hf)] at ht
    cases hs; cases ht
    exact h.sameOutcome_retire i

/-! The statements about 20_memory.md. -/

/-- Settles O16: a read writes only its answer (`step_read`), an action that is no command and no reset keeps all that reads
look at (`step_frame`), and equal inputs meet the same fault or come to the same end (`sameOutcome_exec`). -/
theorem readsHaveNoSideEffectAndCommandsAreFunctions : Obligations.ReadsHaveNoSideEffectAndCommandsAreFunctions := by
  refine ⟨fun a s t u ha ht hu => ?_, fun s t hw hr h => ?_, fun i s t s' t' hk hd h0 h1 hv0 hv1 htf hs ht => ?_⟩
  · obtain ⟨r, hread⟩ := step_read ha s
    obtain rfl : { s with inbox := [a], reply := r } = t := by simpa using (hread [a] s.reply).symm.trans ht
    obtain rfl : { s with inbox := [], reply := r } = u := by simpa using (hread [] r).symm.trans hu
    exact ⟨rfl, rfl⟩
  · obtain ⟨k, d, q, r, rfl⟩ := step_frame hw hr h
    exact ⟨rfl, rfl, fun b n => subkeyReply_frame b n s k d q r⟩
  · have hin : s.SameInputs t := ⟨hk, hd, h0, h1, hv0, hv1, htf⟩
    obtain ⟨herr, hkeys, hvalid, hresult⟩ := hin.sameOutcome_exec hs ht
    exact ⟨herr, hkeys .bank0, hkeys .bank1, hvalid .bank0, hvalid .bank1, hresult⟩

/-- Settles O17: every byte gives eight bits of the sequence, and `bit` is the same place counted from the other end. -/
theorem operandsAreBigEndianMsbFirst : Obligations.OperandsAreBigEndianMsbFirst := by
  refine ⟨fun bytes k j h1 h8 => ?_, fun l i hl h1 h64 => ?_, fun x i h1 h64 => ?_⟩
  · have hidx : 8 * k.val + j - 1 = 8 * k.val + (j - 1) := by omega
    rw [bitsOfBytes, hidx, getElem?_flatMap_of_length length_toBits (by omega) bytes k.val k.isLt,
      getElem?_toBits_pred _ h1 h8, bit_eq_getLsbD _ h1 h8]
    simp
  · rw [← bit_eq_getLsbD _ h1 h64, bit_ofBits hl h1 h64]
  · rw [getElem?_toBits_pred x h1 h64, bit_eq_getLsbD x h1 h64]

/-- Settles O18: keyA is the first 64 bits of KEYIN and keyB what follows them, each a vector of its own width. -/
theorem compositeKeySplitsByPosition : Obligations.CompositeKeySplitsByPosition := by
  intro s i hl h1 h64
  have hA : (s.keyin.take 64).length = 64 := by simp [hl]
  have hB : (s.keyin.drop 64).length = 64 := by simp [hl]
  constructor
  · rw [keyFrom, bit_ofBits hA h1 h64, List.getElem?_take_of_lt (by omega)]
  · rw [keyFrom, bit_ofBits hB h1 h64, List.getElem?_drop, Nat.add_sub_assoc h1]

/-- Settles O31: EXPAND leaves bank b valid with the schedule, and TF and DIN as they were, which is all that ENC b, DEC b and a
read of the bank ask for. -/
theorem expandIsVisibleAtOnce : Obligations.ExpandIsVisibleAtOnce := by
  intro b s ht hk hd
  have hexp := exec_expand_of_pass (b := b) ht hk
  generalize ha : loadBank b (expand tables (ofBits 64 s.keyin)) (retire s) = a at hexp
  have hat : a.tf = false := by simp [← ha, ht]
  have had : a.din = s.din := by simp [← ha]
  have hdl : a.din.length = 64 := had ▸ hd
  have hav : bankValid b a = true := by simp [← ha]
  have hak : bankKeys b a = expand tables (ofBits 64 s.keyin) := by simp [← ha]
  refine ⟨a, _, _, hexp, exec_enc_of_pass hat hdl hav, exec_dec_of_pass hat hdl hav, ?_, ?_, fun i => ?_⟩
  · simp [outReply, had, hak]
  · simp [outReply, had, hak]
  · rw [← hak]
    cases b <;> exact subkeyReply_of_valid rfl hav i

end Sys2Proof.Machine
end

section
/-! SUPPORT. The laws that the statements about command words need (30_encoding.md): the decoder answers a command exactly at the
command's own word, and what a list of host actions does, one action at a time. Below them the proofs of the statements. -/

namespace Sys2Proof.Machine

/-! The decoder against the encoder (30_encoding.md R70 to R73). -/

/-- The bank that bit 3 of a word selects has the BANK field of the word as its bit. -/
theorem bit_bankOfBit (w : BitVec 8) : (bankOfBit (w.getLsbD 3)).bit = w.extractLsb' 3 1 := by
  have hbit : ∀ c : Bool, (bankOfBit c).bit = BitVec.ofBool c := by decide
  rw [hbit]
  refine BitVec.eq_of_getLsbD_eq fun i hi => ?_
  obtain rfl : i = 0 := by omega
  simp

/-- A word is its three fields side by side. -/
theorem append_cmdFields (w : BitVec 8) : (cmdFields w).rsv ++ (cmdFields w).bank ++ (cmdFields w).op = w := by
  simp only [cmdFields]
  rw [BitVec.extractLsb'_append_extractLsb'_eq_extractLsb' (by decide : 4 = 3 + 1),
    BitVec.extractLsb'_append_extractLsb'_eq_extractLsb' (by decide : 3 = 0 + 3)]
  exact BitVec.extractLsb'_eq_self

theorem decode_encode (i : Instr) : decode (encode i) = .ok i := by
  cases i with
  | expand b | enc b | dec b => cases b <;> rfl
  | tenc | tdec => rfl

/-- The fields of a word as the decoder tests them. -/
theorem cmdFields_eq {w : BitVec 8} {n : Nat} (hrsv : w.extractLsb' 4 4 = 0) (hop : (w.extractLsb' 0 3).toNat = n) :
    cmdFields w = { rsv := 0, bank := (bankOfBit (w.getLsbD 3)).bit, op := BitVec.ofNat 3 n } := by
  rw [← hop, BitVec.ofNat_toNat, BitVec.setWidth_eq, bit_bankOfBit, ← hrsv]
  rfl

/-- The decoder reads a command off its own fields: each arm that answers one has tested all three. -/
theorem cmdFields_of_decode {w : BitVec 8} {i : Instr} (h : decode w = .ok i) : cmdFields w = i.fields := by
  unfold decode at h
  split at h
  · cases h
  next hrsv =>
    have hrsv : w.extractLsb' 4 4 = 0 := not_ne_iff.1 hrsv
    split at h <;> cases h
    case h_1.refl | h_2.refl | h_3.refl =>
      next hop => exact cmdFields_eq hrsv hop
    case h_4.refl | h_6.refl =>
      next hop hbank => rw [cmdFields_eq hrsv hop, hbank]; rfl

theorem decode_eq_ok_iff {w : BitVec 8} {i : Instr} : decode w = .ok i ↔ w = encode i := by
  constructor
  · intro h
    rw [encode, ← cmdFields_of_decode h, append_cmdFields]
  · rintro rfl
    exact decode_encode i

/-- The commands, in the order of their words. -/
def commands : List Instr :=
  [.expand .bank0, .enc .bank0, .dec .bank0, .tenc, .tdec, .expand .bank1, .enc .bank1, .dec .bank1]

theorem mem_commands (i : Instr) : i ∈ commands := by
  cases i with
  | expand b | enc b | dec b => cases b <;> decide
  | tenc | tdec => decide

/-- The eight legal words (30_encoding.md R73) are the words of the commands. -/
theorem exists_decode_ok_iff {w : BitVec 8} :
    (∃ i, decode w = .ok i) ↔ w ∈ [0x01#8, 0x02#8, 0x03#8, 0x04#8, 0x05#8, 0x09#8, 0x0A#8, 0x0B#8] := by
  rw [show [0x01#8, 0x02#8, 0x03#8, 0x04#8, 0x05#8, 0x09#8, 0x0A#8, 0x0B#8] = commands.map encode by decide]
  simp only [decode_eq_ok_iff, List.mem_map, mem_commands, true_and, eq_comm (b := w)]

/-- A word is legal or rejected. -/
theorem exists_decode_error_iff {w : BitVec 8} : (∃ m, decode w = .error m) ↔ ¬ ∃ i, decode w = .ok i := by
  cases decode w <;> simp

/-- Two words that agree under the mask 0xF7 and in bit 3 are the same word. -/
theorem eq_iff_mask_and_bit (w v : BitVec 8) : w = v ↔ w &&& 0xF7 = v &&& 0xF7 ∧ w.getLsbD 3 = v.getLsbD 3 := by
  constructor
  · rintro rfl
    exact ⟨rfl, rfl⟩
  · rintro ⟨hmask, hbit⟩
    have hset : ∀ i < 8, i ≠ 3 → (0xF7#8).getLsbD i = true := by decide
    refine BitVec.eq_of_getLsbD_eq fun i hi => ?_
    by_cases h3 : i = 3
    · rw [h3, hbit]
    · simpa [hset i hi h3] using congrArg (·.getLsbD i) hmask

theorem bankOfBit_inj {c d : Bool} : bankOfBit c = bankOfBit d ↔ c = d := by
  revert c d; decide

/-- A word with RSV = 0 under the mask 0xF7: BANK is gone. -/
theorem mask_bankWord (b : Bank) (op : BitVec 3) : (0#4 ++ b.bit ++ op) &&& 0xF7 = 0#5 ++ op := by
  cases b <;> revert op <;> decide

/-- BANK is bit 3 of a word. -/
theorem bankOfBit_bankWord (b : Bank) (op : BitVec 3) : bankOfBit ((0#4 ++ b.bit ++ op).getLsbD 3) = b := by
  cases b <;> revert op <;> decide

/-- A command for each bank with RSV = 0 and the operation `op` is decoded by the match and mask pair of `op`, BANK being bit 3
(30_encoding.md R73). -/
theorem decode_eq_ok_iff_mask {cmd : Bank → Instr} {op : BitVec 3}
    (hfields : ∀ b, (cmd b).fields = { rsv := 0, bank := b.bit, op := op }) (w : BitVec 8) (b : Bank) :
    decode w = .ok (cmd b) ↔ w &&& 0xF7 = 0#5 ++ op ∧ b = bankOfBit (w.getLsbD 3) := by
  have hword : encode (cmd b) = 0#4 ++ b.bit ++ op := by rw [encode, hfields]; rfl
  have hmask : encode (cmd b) &&& 0xF7 = 0#5 ++ op := hword ▸ mask_bankWord b op
  have hbank : bankOfBit ((encode (cmd b)).getLsbD 3) = b := hword ▸ bankOfBit_bankWord b op
  rw [decode_eq_ok_iff, eq_iff_mask_and_bit, hmask, ← bankOfBit_inj, hbank, eq_comm (a := b)]

/-! One host action at the front of the list, and the steps of a list of them (10_state.md R38, 20_memory.md R59). -/

theorem writeCmd_of_legal {w : BitVec 8} {i : Instr} (h : decode w = .ok i) (s : State) : writeCmd w s = exec i s := by
  simp [writeCmd, h]

theorem writeCmd_of_illegal {w : BitVec 8} (h : ∀ i, decode w ≠ .ok i) (s : State) :
    writeCmd w s = .next (raise .invalidCommand s) := by
  obtain ⟨m, hm⟩ := exists_decode_error_iff.2 fun ⟨i, hi⟩ => h i hi
  simp [writeCmd, hm]

theorem stepTimes_succ {s t : State} (h : step s = .next t) (n : Nat) : stepTimes (n + 1) s = stepTimes n t := by
  simp [stepTimes, h]

theorem step_writeKey {s : State} {bits : Bits} {rest : List HostAction} (hi : s.inbox = .writeKey bits :: rest)
    (hl : bits.length ≤ 128) : step s = .next { s with keyin := bits, inbox := rest, reply := .silent } := by
  rw [step_of_cons hi, perform, writeKey_fits _ _ (le_operandMaxBits hl)]

theorem step_writeBlock {s : State} {bits : Bits} {rest : List HostAction} (hi : s.inbox = .writeBlock bits :: rest)
    (hl : bits.length ≤ 128) : step s = .next { s with din := bits, inbox := rest, reply := .silent } := by
  rw [step_of_cons hi, perform, writeBlock_fits _ _ (le_operandMaxBits hl)]

theorem step_command {s : State} {i : Instr} {rest : List HostAction} (hi : s.inbox = .writeCmd (encode i) :: rest) :
    step s = exec i { s with inbox := rest, reply := .silent } := by
  rw [step_of_cons hi, perform, writeCmd_of_legal (decode_encode i)]

theorem step_readOut {s : State} {rest : List HostAction} (hi : s.inbox = .readOut :: rest) (hv : s.ov = true) :
    step s = .next { s with inbox := rest, reply := .block s.dout } := by
  simp [step_of_cons hi, perform, outReply, hv]

theorem exec_tenc_of_pass {s : State} (ht : s.tf = false) (hk : s.keyin.length = 128) (hd : s.din.length = 64) :
    exec .tenc s = .next (retire
      { s with
        ks0 := expand tables (keyFrom .keyA s), kv0 := true, ks1 := expand tables (keyFrom .keyB s), kv1 := true
        dout := encrypt3 tables (ofBits 64 s.din) (keyFrom .keyA s) (keyFrom .keyB s), ov := true }) := by
  rw [exec_of_pass (by simp [faultMet, ht, hk, hd]), commandPath, retire_triple]
  rfl

theorem exec_tdec_of_pass {s : State} (ht : s.tf = false) (hk : s.keyin.length = 128) (hd : s.din.length = 64) :
    exec .tdec s = .next (retire
      { s with
        ks0 := expand tables (keyFrom .keyA s), kv0 := true, ks1 := expand tables (keyFrom .keyB s), kv1 := true
        dout := decrypt3 tables (ofBits 64 s.din) (keyFrom .keyA s) (keyFrom .keyB s), ov := true }) := by
  rw [exec_of_pass (by simp [faultMet, ht, hk, hd]), commandPath, retire_triple]
  rfl

/-- Writing a 64-bit key and EXPAND b leave the key in KEYIN and its schedule in bank b. -/
theorem stepTimes_loadKey {s : State} {key : Key64} {b : Bank} {rest : List HostAction}
    (hi : s.inbox = .writeKey (toBits key) :: .writeCmd (encode (.expand b)) :: rest) (ht : s.tf = false) (n : Nat) :
    stepTimes (n + 2) s = stepTimes n (loadBank b (expand tables key)
      (retire { s with keyin := toBits key, inbox := rest, reply := .silent })) := by
  have hexec := exec_expand_of_pass (b := b) (s := { s with keyin := toBits key, inbox := rest, reply := .silent }) ht
    (length_toBits key)
  rw [ofBits_toBits] at hexec
  rw [stepTimes_succ (step_writeKey hi (by simp)), stepTimes_succ ((step_command rfl).trans hexec)]

/-- A command that leaves a result, and the read of it. -/
theorem stepTimes_command_readOut {i : Instr} {s t : State} (hi : s.inbox = [.writeCmd (encode i), .readOut])
    (hexec : exec i { s with inbox := [.readOut], reply := .silent } = .next t) (hq : t.inbox = [.readOut])
    (hv : t.ov = true) {v : Block} (hd : t.dout = v) : ∃ u, stepTimes 2 s = some u ∧ u.reply = .block v := by
  rw [stepTimes_succ ((step_command hi).trans hexec), stepTimes_succ (step_readOut hq hv)]
  exact ⟨_, rfl, congrArg Reply.block hd⟩

section

variable {i : Instr} {dir : Dir}
  (hexec : ∀ s : State, s.tf = false → s.din.length = 64 → bankValid .bank0 s = true →
    exec i s = .next (retire { s with dout := desPass tables (ofBits 64 s.din) (bankKeys .bank0 s) dir, ov := true }))
include hexec

/-- Writing a block, a command `i` that runs one pass under bank 0, and the read of its result. -/
theorem stepTimes_passScript {s : State} {blk : Block}
    (hi : s.inbox = [.writeBlock (toBits blk), .writeCmd (encode i), .readOut]) (ht : s.tf = false)
    (hv : bankValid .bank0 s = true) :
    ∃ t, stepTimes 3 s = some t ∧ t.reply = .block (desPass tables blk (bankKeys .bank0 s) dir) := by
  rw [stepTimes_succ (step_writeBlock hi (by simp))]
  refine stepTimes_command_readOut rfl (hexec _ ?_ ?_ ?_) rfl rfl ?_
  · exact ht
  · exact length_toBits blk
  · exact hv
  · simp [bankKeys]

/-- DES.ENC and DES.DEC (30_encoding.md R80), for the command `i`. -/
theorem stepTimes_desScript {s : State} {key : Key64} {blk : Block}
    (hi : s.inbox = [.writeKey (toBits key), .writeCmd (encode (.expand .bank0)), .writeBlock (toBits blk),
      .writeCmd (encode i), .readOut]) (ht : s.tf = false) :
    ∃ t, stepTimes 5 s = some t ∧ t.reply = .block (desPass tables blk (expand tables key) dir) := by
  rw [stepTimes_loadKey hi ht]
  exact stepTimes_passScript hexec rfl ht rfl

end

/-- TDES.ENC and TDES.DEC (30_encoding.md R80), for a command that leaves `f` of the block and the two keys in DOUT. -/
theorem stepTimes_tdesScript {i : Instr} {f : Block → Key64 → Key64 → Block}
    (hexec : ∀ s : State, s.tf = false → s.keyin.length = 128 → s.din.length = 64 →
      exec i s = .next (retire
        { s with
          ks0 := expand tables (keyFrom .keyA s), kv0 := true, ks1 := expand tables (keyFrom .keyB s), kv1 := true
          dout := f (ofBits 64 s.din) (keyFrom .keyA s) (keyFrom .keyB s), ov := true }))
    {s : State} {keyA keyB : Key64} {blk : Block}
    (hi : s.inbox = [.writeKey (toBits keyA ++ toBits keyB), .writeBlock (toBits blk), .writeCmd (encode i), .readOut])
    (ht : s.tf = false) : ∃ t, stepTimes 4 s = some t ∧ t.reply = .block (f blk keyA keyB) := by
  have hk : (toBits keyA ++ toBits keyB).length = 128 := by simp
  rw [stepTimes_succ (step_writeKey hi hk.le), stepTimes_succ (step_writeBlock rfl (by simp))]
  refine stepTimes_command_readOut rfl (hexec _ ?_ ?_ ?_) rfl rfl ?_
  · exact ht
  · exact hk
  · exact length_toBits blk
  · simp [keyFrom]

/-- TDES.LOAD (30_encoding.md R80): two keys, each loaded into its bank. -/
theorem stepTimes_tdesLoad {s : State} {keyA keyB : Key64}
    (hi : s.inbox = [.writeKey (toBits keyA), .writeCmd (encode (.expand .bank0)), .writeKey (toBits keyB),
      .writeCmd (encode (.expand .bank1))]) (ht : s.tf = false) :
    ∃ t : State, stepTimes 4 s = some t ∧ t.ks0 = expand tables keyA ∧ t.kv0 = true ∧ t.ks1 = expand tables keyB ∧
      t.kv1 = true ∧ t.keyin = toBits keyB ∧ t.dout = s.dout ∧ t.ov = s.ov := by
  rw [stepTimes_loadKey hi ht, stepTimes_loadKey (key := keyB) (b := .bank1) (rest := [])]
  · exact ⟨_, rfl, rfl, rfl, rfl, rfl, rfl, rfl, rfl⟩
  · rfl
  · exact ht

/-! The statements about 30_encoding.md. -/

/-- Settles O2: a word is decoded to a command exactly when it is the command's word (`decode_eq_ok_iff`), and the words of
EXPAND, ENC and DEC differ in the BANK bit only (`decode_eq_ok_iff_mask`). -/
theorem legalWordsAreTheEight : Obligations.LegalWordsAreTheEight := by
  refine fun w => ⟨exists_decode_ok_iff, decode_eq_ok_iff_mask (op := 1) (fun _ => rfl) w,
    decode_eq_ok_iff_mask (op := 2) (fun _ => rfl) w, decode_eq_ok_iff_mask (op := 3) (fun _ => rfl) w, ?_, ?_⟩
  all_goals
    rw [decode_eq_ok_iff, show w &&& 0xFF = w from BitVec.and_allOnes]
    rfl

/-- Settles O5: the illegal words are those that are none of the eight, and writing one raises the fault and nothing else
(`writeCmd_of_illegal`). -/
theorem illegalWordIsInvalidCommand : Obligations.IllegalWordIsInvalidCommand := by
  refine ⟨fun w => ?_, fun s w rest hi hw => ?_⟩
  · rw [exists_decode_error_iff, exists_decode_ok_iff]
    revert w
    decide
  · rw [step_of_cons hi, perform, writeCmd_of_illegal hw]
    rfl

/-- Settles O55: the lists are the rule's by the words of the commands, and each list is run action by action. -/
theorem pseudoInstructionsCompute : Obligations.PseudoInstructionsCompute := by
  refine ⟨fun k b => ⟨rfl, rfl, rfl, rfl, rfl⟩, fun s key blk keyB ht => ⟨?_, ?_, ?_, ?_, ?_⟩⟩
  · exact stepTimes_desScript (fun _ => exec_enc_of_pass) rfl ht
  · exact stepTimes_desScript (fun _ => exec_dec_of_pass) rfl ht
  · exact stepTimes_tdesScript (fun _ => exec_tenc_of_pass) rfl ht
  · exact stepTimes_tdesScript (fun _ => exec_tdec_of_pass) rfl ht
  · exact stepTimes_tdesLoad (by simp [pseudoTdesLoad]) ht

end Sys2Proof.Machine
end

section
/-! SUPPORT. The laws that the statements about the micro-operations need (40_permute_bitvector.md): each operation bit by bit,
counted from 1, or as an operation on sequences; the shape check in words of logic; and TF, which no step but a reset writes.
Below them the proofs of the statements. -/

namespace Sys2Proof.Machine

/-! Permutation (40_permute_bitvector.md R90 to R92). -/

theorem permuteChecked_of_inRange {n : Nat} {t : List Nat} (h : ∀ v ∈ t, 1 ≤ v ∧ v ≤ n) (x : BitVec n) :
    permuteChecked x t = .ok (permute t.length t x) :=
  if_pos ((entriesInRange_iff n t).2 h)

theorem permuteChecked_of_badEntry {n : Nat} {t : List Nat} (h : ∃ v ∈ t, v < 1 ∨ n < v) (x : BitVec n) :
    permuteChecked x t = .error .invalidTableIndex := by
  obtain ⟨v, hv, hbad⟩ := h
  refine if_neg fun hin => ?_
  obtain ⟨h1, hn⟩ := (entriesInRange_iff n t).1 hin v hv
  omega

/-- The table [1, ..., n] picks the bits of a vector in their order. -/
theorem map_bit_range' {n : Nat} (x : BitVec n) : (List.range' 1 n).map (bit x) = toBits x := by
  rw [List.range'_eq_map_range, List.map_map, toBits]
  exact List.map_congr_left fun i _ => by simp [bit]

theorem permute_range' {n : Nat} (x : BitVec n) : permute n (List.range' 1 n) x = x := by
  rw [permute, map_bit_range', ofBits_toBits]

/-- Where `u` names bits of the first result, reading them there is reading the bits that `t` names in their places. -/
theorem permute_permute {n m : Nat} {t u : List Nat} (ht : t.length = m) (hu : ∀ v ∈ u, 1 ≤ v ∧ v ≤ m) (k : Nat)
    (x : BitVec n) : permute k u (permute m t x) = permute k (u.map (memRead t)) x := by
  have hbits : u.map (bit (permute m t x)) = (u.map (memRead t)).map (bit x) := by
    rw [List.map_map]
    exact List.map_congr_left fun v hv => bit_permute ht x (hu v hv).1 (hu v hv).2
  rw [permute, hbits, permute]

/-! Rotation (40_permute_bitvector.md R94): on the sequence of a vector it is the rotation of lists. -/

theorem bit_rotl {n : Nat} (x : BitVec n) (k : Nat) {i : Nat} (h1 : 1 ≤ i) (hi : i ≤ n) :
    bit (rotl x k) i = bit x ((i - 1 + k) % n + 1) :=
  getMsbD_rotl x k (by omega)

theorem toBits_injective {n : Nat} {x y : BitVec n} (h : toBits x = toBits y) : x = y := by
  rw [← ofBits_toBits x, h, ofBits_toBits]

theorem toBits_rotl {n : Nat} (x : BitVec n) (k : Nat) : toBits (rotl x k) = (toBits x).rotate k := by
  refine List.ext_getElem (by simp) fun i hi _ => ?_
  have hin : i < n := by simpa using hi
  simp [List.getElem_rotate, toBits, getMsbD_rotl x k hin]

theorem rotl_zero {n : Nat} (x : BitVec n) : rotl x 0 = x :=
  toBits_injective (by rw [toBits_rotl, List.rotate_zero])

theorem rotl_width {n : Nat} (x : BitVec n) : rotl x n = x := by
  have hrot : (toBits x).rotate (toBits x).length = toBits x := List.rotate_length _
  rw [length_toBits] at hrot
  exact toBits_injective ((toBits_rotl x n).trans hrot)

theorem rotl_rotl {n : Nat} (x : BitVec n) (a b : Nat) : rotl (rotl x a) b = rotl x (a + b) :=
  toBits_injective (by simp only [toBits_rotl, List.rotate_rotate])

/-! Splitting (40_permute_bitvector.md R95, 42_round_function.md R127). -/

theorem bit_split_fst {n h : Nat} (hn : h ≤ n) (x : BitVec n) {i : Nat} (h1 : 1 ≤ i) (hi : i ≤ h) :
    bit (split h x).1 i = bit x i := by
  rw [split, bit_slice x le_rfl (by omega) h1 hi, Nat.sub_self, Nat.zero_add]

theorem bit_split_snd {n h : Nat} (hn : h + h ≤ n) (x : BitVec n) {i : Nat} (h1 : 1 ≤ i) (hi : i ≤ h) :
    bit (split h x).2 i = bit x (h + i) := by
  rw [split, bit_slice x (by omega) (by omega) h1 hi, Nat.add_sub_cancel]

theorem bit_sboxGroup (x : BitVec 48) {j i : Nat} (hj : 1 ≤ j) (hj8 : j ≤ 8) (h1 : 1 ≤ i) (hi : i ≤ 6) :
    bit (sboxGroup x j) i = bit x (6 * j - 6 + i) := by
  rw [sboxGroup, bit_slice x (by omega) (by omega) h1 hi, Nat.sub_sub]

/-! The shape check (40_permute_bitvector.md R104). -/

theorem sboxShapeOk_iff (box : List (List Nat)) :
    sboxShapeOk box = true ↔ box.length = 4 ∧ ∀ row ∈ box, row.length = 16 ∧ ∀ v ∈ row, v ≤ 15 := by
  simp [sboxShapeOk]

/-- The check decides the conditions of R104, table by table. -/
theorem shapesOk_iff (T : Tables) : shapesOk T = true ↔ ShapesHold T := by
  simp only [shapesOk, Bool.and_eq_true, decide_eq_true_eq, entriesInRange_iff, List.all_eq_true, sboxShapeOk_iff]
  constructor
  · rintro ⟨⟨⟨⟨⟨⟨⟨ip, ipinv⟩, e⟩, p⟩, pc1⟩, pc2⟩, shift⟩, sbox⟩
    exact ⟨ip, ipinv, e, p, pc1, pc2, shift, sbox⟩
  · rintro ⟨ip, ipinv, e, p, pc1, pc2, shift, sbox⟩
    exact ⟨⟨⟨⟨⟨⟨⟨ip, ipinv⟩, e⟩, p⟩, pc1⟩, pc2⟩, shift⟩, sbox⟩

theorem tableFault_eq_false_iff (T : Tables) : tableFault T = false ↔ ShapesHold T := by
  rw [tableFault, Bool.not_eq_false', shapesOk_iff]

theorem tableFault_eq_true_iff (T : Tables) : tableFault T = true ↔ ¬ ShapesHold T := by
  rw [← tableFault_eq_false_iff, Bool.not_eq_false]

theorem shapesOk_tables : shapesOk tables = true := by decide

/-! TF, which a reset alone writes (70_reset_and_hazards.md R202). -/

theorem enter_tf (T : Tables) (t : Transition) (s : State) : (enter T t s).tf = s.tf := by
  cases t with
  | ksDone b => exact loadBank_tf b s.work.held s
  | _ => rfl

theorem runPath_tf (T : Tables) (path : List Transition) (s : State) : (runPath T path s).tf = s.tf := by
  induction path generalizing s with
  | nil => rfl
  | cons t path ih => rw [runPath_cons, ih, enter_tf]

/-- A command takes a fault or walks its path, and TF stays either way. -/
theorem exec_tf {i : Instr} {s t : State} (h : exec i s = .next t) : t.tf = s.tf := by
  cases hf : faultMet i s with
  | some f =>
    cases (exec_of_fault hf).symm.trans h
    exact raise_tf f s
  | none =>
    cases (exec_of_pass hf).symm.trans h
    rw [retire_tf, runPath_tf]

theorem writeCmd_tf {w : BitVec 8} {s t : State} (h : writeCmd w s = .next t) : t.tf = s.tf := by
  by_cases hw : ∃ i, decode w = .ok i
  · obtain ⟨i, hi⟩ := hw
    exact exec_tf ((writeCmd_of_legal hi s).symm.trans h)
  · cases (writeCmd_of_illegal (not_exists.1 hw) s).symm.trans h
    exact raise_tf _ s

theorem perform_tf {a : HostAction} {s t : State} (ha : a ≠ .reset) (h : perform a s = .next t) : t.tf = s.tf := by
  by_cases hw : ∃ w, a = .writeCmd w
  · obtain ⟨w, rfl⟩ := hw
    exact writeCmd_tf h
  · obtain ⟨k, d, r, rfl⟩ := perform_frame (not_exists.1 hw) ha h
    rfl

theorem step_tf {s t : State} (hr : s.inbox.head? ≠ some .reset) (h : step s = .next t) : t.tf = s.tf := by
  cases hi : s.inbox with
  | nil =>
    cases (step_of_nil hi).symm.trans h
    rfl
  | cons a rest =>
    rw [step_of_cons hi] at h
    rw [perform_tf (by simpa [hi] using hr) h]

/-! The statements about 40_permute_bitvector.md. -/

/-- Settles O19: a table in range passes the check, and the result is the data path's, bit by bit. -/
theorem permuteSelectsByTable : Obligations.PermuteSelectsByTable :=
  fun _ x t ht => ⟨permute t.length t x, permuteChecked_of_inRange ht x, fun _ h1 hi => bit_permute rfl x h1 hi⟩

/-- Settles O20: the shape check bounds the entries of each table by the width that it is used at. -/
theorem permuteFaultsOnABadEntry : Obligations.PermuteFaultsOnABadEntry := by
  refine ⟨fun n x t hbad => permuteChecked_of_badEntry hbad x, fun T hT => ?_, shapesOk_tables⟩
  obtain ⟨⟨-, hip⟩, ⟨-, hipinv⟩, ⟨-, he⟩, ⟨-, hp⟩, ⟨-, hpc1⟩, ⟨-, hpc2⟩, -, -⟩ := (shapesOk_iff T).1 hT
  exact ⟨fun x => ⟨_, permuteChecked_of_inRange hip x⟩, fun x => ⟨_, permuteChecked_of_inRange hipinv x⟩,
    fun x => ⟨_, permuteChecked_of_inRange he x⟩, fun x => ⟨_, permuteChecked_of_inRange hp x⟩,
    fun x => ⟨_, permuteChecked_of_inRange hpc1 x⟩, fun x => ⟨_, permuteChecked_of_inRange hpc2 x⟩⟩

/-- Settles O21: the identity table lists the bits in their order, and two permutations compose by their tables. -/
theorem permuteIdentityAndComposition : Obligations.PermuteIdentityAndComposition :=
  ⟨fun _ x => permute_range' x, fun _ _ k _ _ x ht _ hu => permute_permute ht hu k x⟩

/-- Settles O22: on the sequence of bits `rotl` is the rotation of lists (`toBits_rotl`), which gives the slices and the corner
cases. -/
theorem rotateLeftWrapsAround : Obligations.RotateLeftWrapsAround := by
  refine fun n x => ⟨fun k i h1 hi => bit_rotl x k h1 hi, fun k _ hk => ?_, rotl_zero x, rotl_width x, rotl_rotl x⟩
  rw [toBits_rotl, List.rotate_eq_drop_append_take (by simpa using hk.le)]

/-- Settles O23: the halves and the S-box groups are slices, and the sequencer's uses of `split` are its own definitions. -/
theorem splitAndJoinArePositional : Obligations.SplitAndJoinArePositional :=
  ⟨fun h x _ h1 hi => ⟨bit_split_fst (Nat.le_add_right h h) x h1 hi, bit_split_snd le_rfl x h1 hi⟩,
    fun _ x => append_split x, fun _ a b => split_append a b, fun _ _ => rfl, fun _ _ => ⟨rfl, rfl⟩,
    fun x _ _ hj hj8 h1 hi => bit_sboxGroup x hj hj8 h1 hi⟩

/-- Settles O26: the check decides the conditions of R104, a reset writes its result to TF, and every other step keeps TF. -/
theorem shapeCheckDecidesTableFault : Obligations.ShapeCheckDecidesTableFault := by
  refine ⟨fun T => ⟨tableFault_eq_false_iff T, tableFault_eq_true_iff T⟩, (shapesOk_iff tables).1 shapesOk_tables, rfl,
    fun s rest hi => ?_, fun s t hr h => step_tf hr h⟩
  exact ⟨_, step_of_cons hi, rfl⟩

end Sys2Proof.Machine
end

section
/-! SUPPORT. The laws that the statements about the key schedule need (41_key_schedule.md): the state of round n is the state of
round 0 rotated by a sum of SHIFT's entries, so a subkey is a selection from K+; and what a vector of equal bits goes through
unchanged. Below them the proofs of the statements. -/

namespace Sys2Proof.Machine

/-! The rotation that the first `n` rounds come to (41_key_schedule.md R112). -/

/-- How far C and D are rotated after `n` rounds in all. -/
def totalRotation (T : Tables) (n : Nat) : Nat := (T.shift.take n).sum

theorem totalRotation_succ (T : Tables) (n : Nat) :
    totalRotation T (n + 1) = totalRotation T n + memRead T.shift (n + 1) := by
  rw [totalRotation, totalRotation, memRead, Nat.add_sub_cancel, List.take_add_one, List.sum_append]
  cases T.shift[n]? <;> rfl

theorem keyState_succ (T : Tables) (key : Key64) (n : Nat) :
    keyState T key (n + 1) = (rotl (keyState T key n).1 (memRead T.shift (n + 1)),
      rotl (keyState T key n).2 (memRead T.shift (n + 1))) := rfl

theorem keyState_eq_rotl (T : Tables) (key : Key64) (n : Nat) :
    keyState T key n =
      (rotl (keyState T key 0).1 (totalRotation T n), rotl (keyState T key 0).2 (totalRotation T n)) := by
  induction n with
  | zero => simp [totalRotation, rotl_zero]
  | succ n ih => rw [keyState_succ, ih, rotl_rotl, rotl_rotl, ← totalRotation_succ]

/-- The cumulative amounts of R112. -/
theorem totalRotation_tables {n : Nat} (h1 : 1 ≤ n) (h16 : n ≤ 16) :
    totalRotation tables n = memRead [1, 2, 4, 6, 8, 10, 12, 14, 15, 17, 19, 21, 23, 25, 27, 28] n := by
  have hall : ∀ n ≤ 16, 1 ≤ n → totalRotation tables n =
      memRead [1, 2, 4, 6, 8, 10, 12, 14, 15, 17, 19, 21, 23, 25, 27, 28] n := by decide
  exact hall n h16 h1

/-- Sixteen rounds are one whole turn of 28 bits. -/
theorem keyState_sixteen (key : Key64) : keyState tables key 16 = keyState tables key 0 := by
  have hturn : totalRotation tables 16 = 28 := by decide
  rw [keyState_eq_rotl, hturn, rotl_width, rotl_width]

/-! K+, the 56 bits that PC1 takes from the key: the schedule depends on nothing else (41_key_schedule.md R111). -/

/-- C0 and D0 joined are K+. -/
theorem append_keyState_zero (T : Tables) (key : Key64) :
    (keyState T key 0).1 ++ (keyState T key 0).2 = permute 56 T.pc1 key :=
  append_split (h := 28) (permute 56 T.pc1 key)

theorem roundKey_sixteen (key : Key64) : roundKey tables key 16 = permute 48 tables.pc2 (permute 56 tables.pc1 key) := by
  rw [roundKey, keyState_sixteen, append_keyState_zero]

theorem keyState_congr {T : Tables} {key key' : Key64} (h : permute 56 T.pc1 key = permute 56 T.pc1 key') (n : Nat) :
    keyState T key n = keyState T key' n := by
  have hzero : keyState T key 0 = keyState T key' 0 := congrArg (split 28) h
  rw [keyState_eq_rotl, hzero, ← keyState_eq_rotl]

theorem expand_congr {T : Tables} {key key' : Key64} (h : permute 56 T.pc1 key = permute 56 T.pc1 key') :
    expand T key = expand T key' := by
  simp only [expand, roundKey, keyState_congr h]

/-- A bit string read through a table is another one read through a table of other places, if the places hold the same bits. -/
theorem permute_eq_permute_map {n n' m : Nat} {t : List Nat} {f : Nat → Nat} {y : BitVec n} {x : BitVec n'}
    (h : ∀ v ∈ t, bit y v = bit x (f v)) : permute m t y = permute m (t.map f) x := by
  rw [permute, permute, List.map_map]
  exact congrArg (ofBits m) (List.map_congr_left h)

theorem permute_congr {n m : Nat} {t : List Nat} {x y : BitVec n} (h : ∀ v ∈ t, bit x v = bit y v) :
    permute m t x = permute m t y := by
  rw [permute_eq_permute_map (f := id) h, List.map_id]

/-- PC1 names no key bit 8, 16, ..., 64 (40_permute_bitvector.md R101). -/
theorem pc1_entries : ∀ v ∈ tables.pc1, 1 ≤ v ∧ v ≤ 64 ∧ v % 8 ≠ 0 := by decide

/-- Key bits 8, 16, ..., 64 have no effect (41_key_schedule.md R117). -/
theorem expand_ignores_eighth_bits {key key' : Key64}
    (h : ∀ i, 1 ≤ i → i ≤ 64 → i % 8 ≠ 0 → bit key i = bit key' i) : expand tables key = expand tables key' :=
  expand_congr (permute_congr fun v hv =>
    have ⟨h1, h64, h8⟩ := pc1_entries v hv
    h v h1 h64 h8)

/-! A subkey as a selection from K+ (41_key_schedule.md R117): PC2's entries, each moved back by the rotation in its half. -/

/-- The place in C0 and D0 joined whose bit stands at place `v` once both halves are rotated by `k`. -/
def placeBeforeRotation (k v : Nat) : Nat := if v ≤ 28 then (v - 1 + k) % 28 + 1 else (v - 29 + k) % 28 + 29

theorem placeBeforeRotation_fst (k : Nat) {v : Nat} (h : v ≤ 28) :
    1 ≤ placeBeforeRotation k v ∧ placeBeforeRotation k v ≤ 28 := by
  rw [placeBeforeRotation, if_pos h]
  omega

theorem placeBeforeRotation_snd (k : Nat) {v : Nat} (h : 28 < v) :
    29 ≤ placeBeforeRotation k v ∧ placeBeforeRotation k v ≤ 56 := by
  rw [placeBeforeRotation, if_neg (Nat.not_le.2 h)]
  omega

/-- Different places come from different places. -/
theorem placeBeforeRotation_inj {k u v : Nat} (hu : 1 ≤ u ∧ u ≤ 56) (hv : 1 ≤ v ∧ v ≤ 56)
    (h : placeBeforeRotation k u = placeBeforeRotation k v) : u = v := by
  unfold placeBeforeRotation at h
  split at h <;> split at h <;> omega

/-- Bit `i` of a joined pair. -/
theorem bit_append {n m : Nat} (x : BitVec n) (y : BitVec m) {i : Nat} (h1 : 1 ≤ i) :
    bit (x ++ y) i = if i ≤ n then bit x i else bit y (i - n) := by
  have hlt : i - 1 < n ↔ i ≤ n := by omega
  simp only [bit, getMsbD_append, hlt, Nat.sub_right_comm]

theorem bit_append_rotl (c d : KeyHalf) (k : Nat) {v : Nat} (h1 : 1 ≤ v) (h56 : v ≤ 56) :
    bit (rotl c k ++ rotl d k) v = bit (c ++ d) (placeBeforeRotation k v) := by
  rw [bit_append _ _ h1]
  rcases Nat.lt_or_ge 28 v with hv | hv
  · obtain ⟨hlo, -⟩ := placeBeforeRotation_snd k hv
    rw [if_neg (by omega), bit_append _ _ (by omega), if_neg (by omega), bit_rotl d k (by omega) (by omega),
      placeBeforeRotation, if_neg (by omega)]
    rfl
  · obtain ⟨hlo, hhi⟩ := placeBeforeRotation_fst k hv
    rw [if_pos hv, bit_append _ _ hlo, if_pos hhi, bit_rotl c k h1 hv, placeBeforeRotation, if_pos hv]

/-- The places in K+ of the bits of `Kn`. -/
def subkeySelection (n : Nat) : List Nat := tables.pc2.map (placeBeforeRotation (totalRotation tables n))

theorem pc2_entries : ∀ v ∈ tables.pc2, 1 ≤ v ∧ v ≤ 56 := by decide

theorem roundKey_eq_selection (key : Key64) (n : Nat) :
    roundKey tables key n = permute 48 (subkeySelection n) (permute 56 tables.pc1 key) := by
  rw [roundKey, keyState_eq_rotl, ← append_keyState_zero]
  refine permute_eq_permute_map fun v hv => ?_
  obtain ⟨h1, h56⟩ := pc2_entries v hv
  exact bit_append_rotl _ _ _ h1 h56

theorem subkeySelection_nodup (n : Nat) : (subkeySelection n).Nodup := by
  have hpc2 : tables.pc2.Nodup := by decide
  exact hpc2.map_on fun u hu v hv => placeBeforeRotation_inj (pc2_entries u hu) (pc2_entries v hv)

/-- The first 24 bits of a subkey are bits of C0, as PC2's first 24 entries are at most 28. -/
theorem subkeySelection_take (n : Nat) : ∀ v ∈ (subkeySelection n).take 24, 1 ≤ v ∧ v ≤ 28 := by
  have hpc2 : ∀ u ∈ tables.pc2.take 24, u ≤ 28 := by decide
  rw [subkeySelection, ← List.map_take, List.forall_mem_map]
  exact fun u hu => placeBeforeRotation_fst _ (hpc2 u hu)

/-- The last 24 bits of a subkey are bits of D0. -/
theorem subkeySelection_drop (n : Nat) : ∀ v ∈ (subkeySelection n).drop 24, 29 ≤ v ∧ v ≤ 56 := by
  have hpc2 : ∀ u ∈ tables.pc2.drop 24, 28 < u := by decide
  rw [subkeySelection, ← List.map_drop, List.forall_mem_map]
  exact fun u hu => placeBeforeRotation_snd _ (hpc2 u hu)

/-! Vectors of equal bits, which rotation leaves alone and every selection makes again. -/

/-- Every bit of `x` is `c`. -/
def AllBits (c : Bool) {w : Nat} (x : BitVec w) : Prop := ∀ i, 1 ≤ i → i ≤ w → bit x i = c

theorem AllBits.eq {c : Bool} {w : Nat} {x y : BitVec w} (hx : AllBits c x) (hy : AllBits c y) : x = y :=
  eq_of_getMsbD fun i hi => (hx (i + 1) (by omega) hi).trans (hy (i + 1) (by omega) hi).symm

theorem allBits_zero (w : Nat) : AllBits false (0 : BitVec w) := fun i _ _ => by simp [bit]

theorem allBits_allOnes (w : Nat) : AllBits true (BitVec.allOnes w) := fun i h1 hi => by
  have hlt : i - 1 < w := by omega
  simp [bit, hlt]

theorem exists_allBits {w : Nat} {x : BitVec w} (h : x = 0 ∨ x = BitVec.allOnes w) : ∃ c, AllBits c x := by
  obtain rfl | rfl := h
  · exact ⟨false, allBits_zero w⟩
  · exact ⟨true, allBits_allOnes w⟩

theorem AllBits.rotl_eq {c : Bool} {w : Nat} {x : BitVec w} (h : AllBits c x) (k : Nat) : rotl x k = x :=
  AllBits.eq (c := c) (fun i h1 hi => by
    have hlt : (i - 1 + k) % w < w := Nat.mod_lt _ (by omega)
    rw [bit_rotl x k h1 hi, h _ (by omega) hlt]) h

theorem memRead_mem {t : List Nat} {i : Nat} (h1 : 1 ≤ i) (hi : i ≤ t.length) : memRead t i ∈ t := by
  have hlt : i - 1 < t.length := by omega
  simp [memRead, hlt]

theorem AllBits.permute {c : Bool} {n m : Nat} {x : BitVec n} {t : List Nat} (h : AllBits c x)
    (ht : t.length = m ∧ ∀ v ∈ t, 1 ≤ v ∧ v ≤ n) : AllBits c (permute m t x) := fun i h1 hi => by
  obtain ⟨hlen, hrange⟩ := ht
  obtain ⟨hlo, hhi⟩ := hrange _ (memRead_mem h1 (hlen ▸ hi))
  rw [bit_permute hlen x h1 hi, h _ hlo hhi]

theorem AllBits.split {c : Bool} {h : Nat} {x : BitVec (h + h)} (hx : AllBits c x) :
    AllBits c (split h x).1 ∧ AllBits c (split h x).2 := by
  constructor <;> intro i h1 hi
  · rw [bit_split_fst (Nat.le_add_right h h) x h1 hi, hx i h1 (by omega)]
  · rw [bit_split_snd le_rfl x h1 hi, hx (h + i) (by omega) (by omega)]

/-- With constant halves every round leaves the key state as it was (41_key_schedule.md R117). -/
theorem keyState_eq_zero_of_allBits {T : Tables} {key : Key64} {c d : Bool} (hc : AllBits c (keyState T key 0).1)
    (hd : AllBits d (keyState T key 0).2) (n : Nat) : keyState T key n = keyState T key 0 := by
  rw [keyState_eq_rotl, hc.rotl_eq, hd.rotl_eq]

/-- A key of equal bits gives sixteen subkeys of that bit, under every table record that passes the shape check. -/
theorem expand_of_allBits {T : Tables} (hT : ShapesHold T) {key : Key64} {k : Subkey} {c : Bool} (hkey : AllBits c key)
    (hk : AllBits c k) : expand T key = Vector.replicate 16 k := by
  have hKplus : AllBits c (permute 56 T.pc1 key) := hkey.permute hT.pc1
  obtain ⟨hC, hD⟩ := hKplus.split (h := 28)
  have hround (n : Nat) : roundKey T key n = k := by
    rw [roundKey, keyState_eq_zero_of_allBits hC hD, append_keyState_zero]
    exact (hKplus.permute hT.pc2).eq hk
  refine Vector.ext fun i hi => ?_
  rw [expand, Vector.getElem_ofFn, hround, Vector.getElem_replicate]

/-! The statements about 41_key_schedule.md. -/

/-- Settles O27: the effect of EXPAND is `exec_expand_of_pass` and that of its faults `exec_of_fault`; PC1 skips the ignored key
bits, a key of equal bits gives such subkeys, and K16 is PC2 of K+. -/
theorem expandCommand : Obligations.ExpandCommand := by
  have hT : ShapesHold tables := (shapesOk_iff tables).1 shapesOk_tables
  refine ⟨fun b s ht hk => ?_, fun b s ht => ?_, fun b s ht hk => ?_, decode_encode (.expand .bank0),
    decode_encode (.expand .bank1), fun _ _ => expand_ignores_eighth_bits,
    expand_of_allBits hT (allBits_zero 64) (allBits_zero 48),
    expand_of_allBits hT (allBits_allOnes 64) (allBits_allOnes 48), ?_⟩
  · rw [exec_expand_of_pass ht hk]
    cases b <;> exact ⟨_, _, rfl⟩
  · exact exec_of_fault (f := .invalidTableIndex) (by simp [faultMet, ht])
  · exact exec_of_fault (f := .invalidInputLength .key) (by simp [faultMet, ht, hk])
  · rw [expand, Vector.getElem_ofFn, roundKey_sixteen]
    decide +kernel

/-- Settles O29: one round is the transition's own writes, and the rounds add up by `keyState_eq_rotl`. -/
theorem keyScheduleRotations : Obligations.KeyScheduleRotations := by
  refine ⟨fun T s n _ h16 => ⟨rfl, rfl, Nat.mod_eq_of_lt (by omega)⟩, fun key n h1 h16 => ?_⟩
  rw [keyState_eq_rotl, totalRotation_tables h1 h16]

/-- Settles O30: sixteen rounds are a whole turn, PC1 skips the ignored key bits, a subkey is the selection `subkeySelection n`
from K+, and constant halves stay as they are. -/
theorem keyScheduleProperties : Obligations.KeyScheduleProperties := by
  refine ⟨keyState_sixteen, fun _ _ => expand_ignores_eighth_bits, expand_congr (by decide), fun n h1 h16 => ?_,
    fun key hC hD n h1 h16 => ?_⟩
  · refine ⟨subkeySelection n, List.length_map _, subkeySelection_nodup n, subkeySelection_take n, subkeySelection_drop n,
      fun key => ?_⟩
    rw [subkeyAt_expand tables key h1 h16, roundKey_eq_selection]
  · obtain ⟨c, hc⟩ := exists_allBits hC
    obtain ⟨d, hd⟩ := exists_allBits hD
    rw [subkeyAt_expand tables key h1 h16, subkeyAt_expand tables key le_rfl (by decide), roundKey, roundKey,
      keyState_eq_zero_of_allBits hc hd, keyState_eq_zero_of_allBits hc hd 1]

/-- Settles O28: each is what the transition writes; the subkey of round i + 1 is held at index i. -/
theorem keyScheduleTransitions : Obligations.KeyScheduleTransitions := by
  refine ⟨fun T s => ⟨rfl, rfl, rfl⟩, fun T s i => ?_⟩
  simp [enter, enterKsRound]

end Sys2Proof.Machine
end

section
/-! SUPPORT. The laws that the statements about the round function need (42_round_function.md): the entry that an S-box looks up,
and the S-box layer as one sequence, the outputs of the eight boxes in their order. Below them the proofs of the statements. -/

namespace Sys2Proof.Machine

/-! One S-box (42_round_function.md R128). -/

/-- What holds of the default and of every item of a list holds of whatever is read from it. -/
theorem getD_getElem?_of_forall {α : Type} {p : α → Prop} {l : List α} {d : α} (hd : p d) (hl : ∀ a ∈ l, p a) (i : Nat) :
    p (l[i]?.getD d) := by
  cases ha : l[i]? with
  | none => exact hd
  | some a => exact hl a (List.mem_of_getElem? ha)

/-- Every read of an S-box gives a value of 4 bits, under every table record that passes the shape check. -/
theorem memReadS_le {T : Tables} (hT : ShapesHold T) (j row col : Nat) : memReadS T j row col ≤ 15 := by
  obtain ⟨-, hsbox⟩ := hT.sbox
  have hbox : ∀ r ∈ T.sbox[j - 1]?.getD [], ∀ v ∈ r, v ≤ 15 :=
    getD_getElem?_of_forall (p := fun box => ∀ r ∈ box, ∀ v ∈ r, v ≤ 15) (by simp)
      (fun box hb r hr => ((hsbox box hb).2 r hr).2) _
  have hrow : ∀ v ∈ (T.sbox[j - 1]?.getD [])[row]?.getD [], v ≤ 15 :=
    getD_getElem?_of_forall (p := fun r => ∀ v ∈ r, v ≤ 15) (by simp) hbox _
  exact getD_getElem?_of_forall (p := (· ≤ 15)) (Nat.zero_le _) hrow _

/-- The value of four bits, bit 1 the most significant. -/
theorem toNat_eq_sum_bits : ∀ x : BitVec 4,
    x.toNat = 8 * (bit x 1).toNat + 4 * (bit x 2).toNat + 2 * (bit x 3).toNat + (bit x 4).toNat := by decide

/-- The inner four bits of a group as the column that they choose. -/
theorem toNat_slice_inner (g : BitVec 6) : (slice g 2 4).toNat =
    8 * (bit g 2).toNat + 4 * (bit g 3).toNat + 2 * (bit g 4).toNat + (bit g 5).toNat := by
  have hbit (k : Nat) (h1 : 1 ≤ k) (h4 : k ≤ 4) : bit (slice g 2 4) k = bit g (1 + k) :=
    bit_slice g (by decide) (by decide) h1 h4
  rw [toNat_eq_sum_bits, hbit 1 (by decide) (by decide), hbit 2 (by decide) (by decide), hbit 3 (by decide) (by decide),
    hbit 4 (by decide) (by decide)]

/-- The entry fits its 4 bits, so the output is the entry itself. -/
theorem toNat_sbox {T : Tables} (hT : ShapesHold T) (j : Nat) (g : BitVec 6) :
    (sbox T j g).toNat = memReadS T j (2 * (bit g 1).toNat + (bit g 6).toNat) (slice g 2 4).toNat := by
  rw [sbox, BitVec.toNat_ofNat]
  exact Nat.mod_eq_of_lt (Nat.lt_succ_of_le (memReadS_le hT _ _ _))

/-! The S-box layer (42_round_function.md R127, R129). -/

theorem toBits_append {n m : Nat} (x : BitVec n) (y : BitVec m) : toBits (x ++ y) = toBits x ++ toBits y := by
  refine List.ext_getElem (by simp) fun i hi _ => ?_
  simp [toBits, List.getElem_append, getMsbD_append, -BitVec.getMsbD_append]

/-- The layer is the outputs of S-box 1 to S-box 8, one after the other. -/
theorem toBits_sboxLayer (T : Tables) (x : BitVec 48) :
    toBits (sboxLayer T x) = (List.range' 1 8).flatMap fun j => toBits (sbox T j (sboxGroup x j)) := by
  simp only [sboxLayer, toBits_append]
  simp [List.range']

/-- Bit `k` of output group `j` is bit `k` of S-box `j` on input group `j`. -/
theorem bit_sboxLayer (T : Tables) (x : BitVec 48) {j k : Nat} (hj : 1 ≤ j) (hj8 : j ≤ 8) (h1 : 1 ≤ k) (h4 : k ≤ 4) :
    bit (sboxLayer T x) (4 * j - 4 + k) = bit (sbox T j (sboxGroup x j)) k := by
  have hgroup : (toBits (sboxLayer T x))[4 * (j - 1) + (k - 1)]? = (toBits (sbox T j (sboxGroup x j)))[k - 1]? := by
    rw [toBits_sboxLayer, getElem?_flatMap_of_length (fun _ => length_toBits _) (by omega) _ _ (by simp; omega),
      List.getElem_range', Nat.one_mul, Nat.add_sub_cancel' hj]
  rw [getElem?_toBits_pred _ h1 h4, show 4 * (j - 1) + (k - 1) = 4 * j - 4 + k - 1 by omega,
    getElem?_toBits_pred _ (by omega) (by omega)] at hgroup
  exact Option.some.inj hgroup

/-! The statements about 42_round_function.md. -/

/-- Settles O32: the inner four bits have the value of the column (`toNat_slice_inner`), and the shape check bounds every entry
by 15 (`toNat_sbox`). -/
theorem sboxLookupByRowAndColumn : Obligations.SboxLookupByRowAndColumn := by
  intro j g _ _ row col
  have hcol : (slice g 2 4).toNat = col := toNat_slice_inner g
  refine ⟨?_, ?_, ?_⟩
  · have h1 := Bool.toNat_le (bit g 1)
    have h6 := Bool.toNat_le (bit g 6)
    omega
  · exact hcol ▸ Nat.le_of_lt_succ (slice g 2 4).isLt
  · rw [← hcol]
    exact toNat_sbox ((shapesOk_iff tables).1 shapesOk_tables) j g

/-- Settles O33: output group j and the output of S-box j have the same four bits (`bit_sboxLayer`). -/
theorem sboxLayerWorksGroupByGroup : Obligations.SboxLayerWorksGroupByGroup := by
  intro T x j hj hj8
  refine eq_of_getMsbD fun i hi => ?_
  have hbit := bit_slice (sboxLayer T x) (i := 4 * j - 3) (w := 4) (k := i + 1) (by omega) (by omega) (by omega) hi
  rw [show 4 * j - 3 - 1 = 4 * j - 4 by omega, bit_sboxLayer T x hj hj8 (by omega) hi] at hbit
  exact hbit

end Sys2Proof.Machine
end

section
/-! SUPPORT. The laws that the statements about a pass need (43_feistel_des.md): a round is undone by the same round on the swapped
halves, so a pass in the opposite direction walks the rounds back; the faults of ENC and DEC; and what a block command takes from
the state. Below them the proofs of the statements. -/

namespace Sys2Proof.Machine

/-! IP and IPINV (40_permute_bitvector.md R98): composed in either order, their tables are the identity table. -/

theorem permute_ipinv_ip (x : Block) : permute 64 tables.ipinv (permute 64 tables.ip x) = x := by
  have hrange : ∀ v ∈ tables.ipinv, 1 ≤ v ∧ v ≤ 64 := by decide
  have hid : tables.ipinv.map (memRead tables.ip) = List.range' 1 64 := by decide
  rw [permute_permute length_ip hrange, hid, permute_range']

theorem permute_ip_ipinv (x : Block) : permute 64 tables.ip (permute 64 tables.ipinv x) = x := by
  have hrange : ∀ v ∈ tables.ip, 1 ≤ v ∧ v ≤ 64 := by decide
  have hid : tables.ip.map (memRead tables.ipinv) = List.range' 1 64 := by decide
  rw [permute_permute length_ipinv hrange, hid, permute_range']

/-! The subkey of a round (43_feistel_des.md R149). -/

/-- The other direction of a pass. -/
def oppositeDir : Dir → Dir
  | .enc => .dec
  | .dec => .enc

theorem some_subkeyAt (ks : Schedule) {n : Nat} (h1 : 1 ≤ n) (h16 : n ≤ 16) : some (subkeyAt ks n) = ks[n - 1]? := by
  have hlt : n - 1 < 16 := by omega
  simp [subkeyAt, hlt]

theorem subkeyAt_reverse (ks : Schedule) {n : Nat} (h1 : 1 ≤ n) (h16 : n ≤ 16) :
    subkeyAt ks.reverse n = subkeyAt ks (17 - n) := by
  have hlt : n - 1 < 16 := by omega
  have hidx : 16 - 1 - (n - 1) = 17 - n - 1 := by omega
  rw [subkeyAt, subkeyAt, Vector.getElem?_reverse hlt, hidx]

/-- Round `n` in one direction uses the subkey of round 17 - n in the other. -/
theorem selectKey_oppositeDir (ks : Schedule) (dir : Dir) {n : Nat} (hn : n ≤ 16) :
    selectKey ks (oppositeDir dir) (17 - n) = selectKey ks dir n := by
  cases dir with
  | enc => rw [oppositeDir, selectKey, selectKey, Nat.sub_sub_self (by omega)]
  | dec => rfl

/-- Decrypting reads the reversed schedule forwards. -/
theorem feistel_dec (T : Tables) (ks : Schedule) (lr : Half × Half) :
    ∀ n ≤ 16, feistel T ks .dec lr n = feistel T ks.reverse .enc lr n := by
  intro n
  induction n with
  | zero => intro _; rfl
  | succ n ih =>
    intro hn
    rw [feistel, feistel, ih (by omega), selectKey, selectKey, subkeyAt_reverse ks (by omega) hn]

theorem desPass_dec (T : Tables) (block : Block) (ks : Schedule) :
    desPass T block ks .dec = desPass T block ks.reverse .enc := by
  rw [desPass, desPass, feistel_dec T ks _ 16 le_rfl]

/-! A pass undone by the pass in the opposite direction (43_feistel_des.md R156). -/

/-- A round, the halves swapped, and the same round again give the swapped halves: F is exclusive-ored twice. -/
theorem feistelRound_swap_feistelRound (T : Tables) (k : Subkey) (lr : Half × Half) :
    feistelRound T k (feistelRound T k lr).swap = lr.swap := by
  simp [feistelRound, Prod.swap]

/-- From the swapped end of a pass, `n` rounds in the opposite direction lead back to its round 16 - n. -/
theorem feistel_oppositeDir (T : Tables) (ks : Schedule) (dir : Dir) (lr : Half × Half) :
    ∀ n ≤ 16, feistel T ks (oppositeDir dir) (feistel T ks dir lr 16).swap n = (feistel T ks dir lr (16 - n)).swap := by
  intro n
  induction n with
  | zero => intro _; rfl
  | succ n ih =>
    intro hn
    obtain ⟨m, hm⟩ : ∃ m, 16 - n = m + 1 := ⟨15 - n, by omega⟩
    have hkey : selectKey ks (oppositeDir dir) (n + 1) = selectKey ks dir (m + 1) := by
      rw [← selectKey_oppositeDir ks dir (by omega), show 17 - (m + 1) = n + 1 by omega]
    rw [feistel, ih (by omega), hm, feistel, hkey, feistelRound_swap_feistelRound, show 16 - (n + 1) = m by omega]

/-- IP of a pass's result splits into the halves after round 16, swapped. -/
theorem split_ip_desPass (block : Block) (ks : Schedule) (dir : Dir) :
    split 32 (permute 64 tables.ip (desPass tables block ks dir)) =
      (feistel tables ks dir (split 32 (permute 64 tables.ip block)) 16).swap := by
  rw [desPass, permute_ip_ipinv]
  exact split_append _ _

theorem desPass_oppositeDir (block : Block) (ks : Schedule) (dir : Dir) :
    desPass tables (desPass tables block ks dir) ks (oppositeDir dir) = block := by
  rw [desPass, split_ip_desPass, feistel_oppositeDir tables ks dir _ 16 le_rfl]
  calc permute 64 tables.ipinv
        ((split 32 (permute 64 tables.ip block)).1 ++ (split 32 (permute 64 tables.ip block)).2)
      = permute 64 tables.ipinv (permute 64 tables.ip block) :=
        congrArg (permute 64 tables.ipinv) (append_split (h := 32) (permute 64 tables.ip block))
    _ = block := permute_ipinv_ip block

/-- The worked example of R153, read backwards in R154. -/
theorem desPass_enc_example :
    desPass tables 0x0123456789ABCDEF (expand tables 0x133457799BBCDFF1) .enc = 0x85E813540F0AB405 := by decide +kernel

/-! The faults of ENC and DEC, in their order (43_feistel_des.md R153, R154). -/

theorem faultMet_of_tf {i : Instr} {s : State} (ht : s.tf = true) : faultMet i s = some .invalidTableIndex := by
  simp [faultMet, ht]

section

variable {i : Instr} {b : Bank} {s : State} (hi : i = .enc b ∨ i = .dec b)
include hi

theorem faultMet_of_badBlock (ht : s.tf = false) (hd : s.din.length ≠ 64) :
    faultMet i s = some (.invalidInputLength .block) := by
  obtain rfl | rfl := hi <;> simp [faultMet, ht, hd]

theorem faultMet_of_emptyBank (ht : s.tf = false) (hd : s.din.length = 64) (hv : bankValid b s = false) :
    faultMet i s = some (.keyNotLoaded b) := by
  obtain rfl | rfl := hi <;> simp [faultMet, ht, hd, hv]

theorem bankValid_of_faultMet_eq_none (h : faultMet i s = none) : bankValid b s = true := by
  obtain rfl | rfl := hi
  all_goals
    simp only [faultMet] at h
    split_ifs at h with _ _ hv
    exact Bool.eq_true_of_not_eq_false hv

end

/-! What a block command takes from the state (43_feistel_des.md R157). -/

/-- The two states give the command `i` the same block and the same key material. -/
structure State.SameMaterial (i : Instr) (s t : State) : Prop where
  din : s.din = t.din
  tf : s.tf = t.tf
  bank : ∀ b, i = .enc b ∨ i = .dec b → bankValid b s = bankValid b t ∧ (bankValid b s = true → bankKeys b s = bankKeys b t)
  keyin : i = .tenc ∨ i = .tdec → s.keyin = t.keyin

/-- The two states show the same result and the same fault code. -/
structure State.SameResult (s t : State) : Prop where
  ov : s.ov = t.ov
  err : s.err = t.err
  dout : s.ov = true → s.dout = t.dout

theorem State.sameResult_raise (f : Fault) (s t : State) : (raise f s).SameResult (raise f t) := ⟨rfl, rfl, nofun⟩

namespace State.SameMaterial

variable {i : Instr} {s t : State}

theorem faultMet_eq (h : s.SameMaterial i t) (hi : isBlockCommand i = true) : faultMet i s = faultMet i t := by
  obtain ⟨hdin, htf, hbank, hkeyin⟩ := h
  cases i with
  | expand b => cases hi
  | enc b | dec b =>
    obtain ⟨hvalid, -⟩ := hbank b (by simp)
    simp only [faultMet, hdin, htf, hvalid]
  | tenc | tdec => simp only [faultMet, hdin, htf, hkeyin (by simp)]

/-- The result of a block command that meets no fault is made of the block and the key material alone. -/
theorem sameResult_retire (h : s.SameMaterial i t) (hi : isBlockCommand i = true) (hf : faultMet i s = none) :
    (retire (runPath tables (commandPath i) s)).SameResult (retire (runPath tables (commandPath i) t)) := by
  have hblock : blockFrom .din s = blockFrom .din t := congrArg (ofBits 64) h.din
  cases i with
  | expand b => cases hi
  | enc b | dec b =>
    obtain ⟨-, hkeys⟩ := h.bank b (by simp)
    rw [commandPath, retire_pass, retire_pass, hblock, hkeys (bankValid_of_faultMet_eq_none (by simp) hf)]
    exact ⟨rfl, rfl, fun _ => rfl⟩
  | tenc | tdec =>
    have hkey (src : KeySource) : keyFrom src s = keyFrom src t := by
      cases src <;> simp only [keyFrom, h.keyin (by simp)]
    rw [commandPath, retire_triple, retire_triple, hblock, hkey, hkey]
    exact ⟨rfl, rfl, fun _ => rfl⟩

theorem sameResult_exec {s' t' : State} (h : s.SameMaterial i t) (hi : isBlockCommand i = true)
    (hs : exec i s = .next s') (ht : exec i t = .next t') : s'.SameResult t' := by
  have hft := h.faultMet_eq hi
  cases hf : faultMet i s with
  | some f =>
    cases (exec_of_fault hf).symm.trans hs
    cases (exec_of_fault (hft ▸ hf)).symm.trans ht
    exact sameResult_raise f s t
  | none =>
    cases (exec_of_pass hf).symm.trans hs
    cases (exec_of_pass (hft ▸ hf)).symm.trans ht
    exact h.sameResult_retire hi hf

end State.SameMaterial

/-! The statements about 43_feistel_des.md. -/

/-- Settles O36: the round's subkey is the bank's entry that the direction selects, and reversing the schedule is what the
direction does (`desPass_dec`). -/
theorem roundTransition : Obligations.RoundTransition := by
  refine ⟨fun T s n h1 h16 => ⟨selectKey (bankKeys s.work.kb s) s.work.dir n, fun hdir => ?_, fun hdir => ?_, rfl⟩, desPass_dec⟩
  · rw [hdir]
    exact some_subkeyAt _ h1 h16
  · rw [hdir]
    exact some_subkeyAt _ (by omega) (by omega)

/-- Settles O38: the effect of ENC is `exec_enc_of_pass` and that of its faults `exec_of_fault`. -/
theorem encCommand : Obligations.EncCommand :=
  ⟨fun _ _ ht hd hv => ⟨_, _, exec_enc_of_pass ht hd hv⟩,
    fun _ _ ht => exec_of_fault (faultMet_of_tf ht),
    fun _ _ ht hd => exec_of_fault (faultMet_of_badBlock (.inl rfl) ht hd),
    fun _ _ ht hd hv => exec_of_fault (faultMet_of_emptyBank (.inl rfl) ht hd hv),
    decode_encode (.enc .bank0), decode_encode (.enc .bank1), desPass_enc_example⟩

/-- Settles O39: as for ENC; the example is that of ENC, undone. -/
theorem decCommand : Obligations.DecCommand :=
  ⟨fun _ _ ht hd hv => ⟨_, _, exec_dec_of_pass ht hd hv⟩,
    fun _ _ ht => exec_of_fault (faultMet_of_tf ht),
    fun _ _ ht hd => exec_of_fault (faultMet_of_badBlock (.inr rfl) ht hd),
    fun _ _ ht hd hv => exec_of_fault (faultMet_of_emptyBank (.inr rfl) ht hd hv),
    decode_encode (.dec .bank0), decode_encode (.dec .bank1),
    desPass_enc_example ▸ desPass_oppositeDir 0x0123456789ABCDEF (expand tables 0x133457799BBCDFF1) .enc⟩

/-- Settles O40: each direction is the opposite of the other (`desPass_oppositeDir`). -/
theorem passRoundTrip : Obligations.PassRoundTrip :=
  fun block ks => ⟨desPass_oppositeDir block ks .enc, desPass_oppositeDir block ks .dec⟩

/-- Settles O41: with the same material both states meet the same fault, or both passes come to the same result. -/
theorem blocksAreIndependent : Obligations.BlocksAreIndependent := by
  intro i s t s' t' hi hdin htf hbank hkeyin hs ht
  have hsame : s.SameMaterial i t := ⟨hdin, htf, hbank, hkeyin⟩
  obtain ⟨hov, herr, hdout⟩ := hsame.sameResult_exec hi hs ht
  exact ⟨hov, herr, hdout⟩

/-- Settles O35: each is what the transition writes, `split` being two slices. -/
theorem passTransitions : Obligations.PassTransitions := fun _ _ => ⟨rfl, rfl, rfl⟩

end Sys2Proof.Machine
end

section
/-! SUPPORT. The laws that the statements about Triple-DES need (44_triple_des.md): TENC and TDEC as one command with a direction,
whose three passes alternate with the opposite one, so that each undoes the other and equal halves cancel; and the faults of both.
Below them the proofs of the statements. -/

namespace Sys2Proof.Machine

/-! The two Triple-DES commands by the direction of their outer passes (44_triple_des.md R165, R166). -/

@[simp] theorem oppositeDir_oppositeDir (dir : Dir) : oppositeDir (oppositeDir dir) = dir := by cases dir <;> rfl

/-- The single-pass command of a direction. -/
def passCommand : Dir → Bank → Instr
  | .enc => .enc
  | .dec => .dec

/-- The Triple-DES command whose outer passes have the direction. -/
def tripleCommand : Dir → Instr
  | .enc => .tenc
  | .dec => .tdec

/-- Three passes: under key A in a direction, under key B in the opposite one, and under key A again. -/
def tripleDes (T : Tables) (dir : Dir) (block : Block) (keyA keyB : Key64) : Block :=
  desPass T (desPass T (desPass T block (expand T keyA) dir) (expand T keyB) (oppositeDir dir)) (expand T keyA) dir

theorem tripleDes_enc (T : Tables) : tripleDes T .enc = encrypt3 T := rfl

theorem tripleDes_dec (T : Tables) : tripleDes T .dec = decrypt3 T := rfl

/-- The passes in the opposite direction undo the three from the last to the first (44_triple_des.md R170). -/
theorem tripleDes_oppositeDir (dir : Dir) (block : Block) (keyA keyB : Key64) :
    tripleDes tables (oppositeDir dir) (tripleDes tables dir block keyA keyB) keyA keyB = block := by
  simp only [tripleDes, desPass_oppositeDir]

/-- With one key the second pass undoes the first (44_triple_des.md R171). -/
theorem tripleDes_sameKey (dir : Dir) (block : Block) (key : Key64) :
    tripleDes tables dir block key key = desPass tables block (expand tables key) dir := by
  rw [tripleDes, desPass_oppositeDir]

theorem exec_passCommand_of_pass {dir : Dir} {b : Bank} {s : State} (ht : s.tf = false) (hd : s.din.length = 64)
    (hv : bankValid b s = true) : exec (passCommand dir b) s =
      .next (retire { s with dout := desPass tables (ofBits 64 s.din) (bankKeys b s) dir, ov := true }) := by
  cases dir with
  | enc => exact exec_enc_of_pass ht hd hv
  | dec => exact exec_dec_of_pass ht hd hv

theorem exec_tripleCommand_of_pass {dir : Dir} {s : State} (ht : s.tf = false) (hk : s.keyin.length = 128)
    (hd : s.din.length = 64) : exec (tripleCommand dir) s = .next (retire
      { s with
        ks0 := expand tables (keyFrom .keyA s), kv0 := true, ks1 := expand tables (keyFrom .keyB s), kv1 := true
        dout := tripleDes tables dir (ofBits 64 s.din) (keyFrom .keyA s) (keyFrom .keyB s), ov := true }) := by
  cases dir with
  | enc => rw [tripleDes_enc]; exact exec_tenc_of_pass ht hk hd
  | dec => rw [tripleDes_dec]; exact exec_tdec_of_pass ht hk hd

/-- With equal halves the Triple-DES command of a direction leaves the result of one pass, and one schedule in both banks. -/
theorem exec_tripleCommand_of_equalHalves (dir : Dir) {s : State} {key : Key64} (ht : s.tf = false)
    (hk : s.keyin = toBits key ++ toBits key) (hd : s.din.length = 64) :
    ∃ t, exec (tripleCommand dir) s = .next t ∧ t.dout = desPass tables (ofBits 64 s.din) (expand tables key) dir ∧
      t.ov = true ∧ t.ks0 = expand tables key ∧ t.ks1 = expand tables key ∧ t.kv0 = true ∧ t.kv1 = true := by
  have hA : keyFrom .keyA s = key := by simp [keyFrom, hk]
  have hB : keyFrom .keyB s = key := by simp [keyFrom, hk]
  refine ⟨_, exec_tripleCommand_of_pass ht (by simp [hk]) hd, ?_, rfl, congrArg (expand tables) hA,
    congrArg (expand tables) hB, rfl, rfl⟩
  rw [retire_dout, hA, hB, tripleDes_sameKey]

/-- The worked example of R165, read backwards in R166. -/
theorem encrypt3_example :
    encrypt3 tables 0x1234567890ABCDEF 0x1122334455667789 0x8798794535213544 = 0x3A3ACE650DB3BBDC := by decide +kernel

/-! The faults of TENC and TDEC, in their order (44_triple_des.md R165, R166). -/

theorem faultMet_tripleCommand_of_badKey {dir : Dir} {s : State} (ht : s.tf = false) (hk : s.keyin.length ≠ 128) :
    faultMet (tripleCommand dir) s = some (.invalidInputLength .key) := by
  cases dir <;> simp [tripleCommand, faultMet, ht, hk]

theorem faultMet_tripleCommand_of_badBlock {dir : Dir} {s : State} (ht : s.tf = false) (hk : s.keyin.length = 128)
    (hd : s.din.length ≠ 64) : faultMet (tripleCommand dir) s = some (.invalidInputLength .block) := by
  cases dir <;> simp [tripleCommand, faultMet, ht, hk, hd]

/-! The path of the Triple-DES commands (44_triple_des.md R168). -/

/-- One pass into T: nothing but working registers and the sequencer is written. -/
theorem runPath_passPath_doneToT (T : Tables) (pass : PassNo) (kb : Bank) (dir : Dir) (src : BlockSource) (s : State) :
    ∃ w, runPath T (passPath pass kb dir src ++ [.doneToT]) s = { s with work := w, seq := .done } ∧
      w.t = desPass T (blockFrom src s) (bankKeys kb s) dir := by
  obtain ⟨w, hrun, hout⟩ := runPath_passPath T pass kb dir src s
  refine ⟨{ w with t := w.outv }, ?_, hout⟩
  rw [runPath_append, hrun]
  rfl

/-- The last Done has written ERR, so the end of the command writes only what holds no value, and SEQ. -/
theorem retire_of_err_eq_zero {s : State} (h : s.err = 0) :
    retire s = { s with seq := .idle, work := freeWork s.fresh, fresh := s.fresh + 1 } := by
  rw [retire, ← h]

theorem runPath_tripleCommand_err (dir : Dir) (s : State) :
    (runPath tables (commandPath (tripleCommand dir)) s).err = 0 := by
  cases dir with
  | enc | dec =>
    rw [tripleCommand, commandPath, runPath_append]
    obtain ⟨w, hrun⟩ := runPath_threePasses tables _ _ _
    rw [hrun]

/-! The statements about 44_triple_des.md. -/

/-- Settles O43: the effect of TENC is `exec_tenc_of_pass` and that of its faults `exec_of_fault`. -/
theorem tencCommand : Obligations.TencCommand :=
  ⟨fun _ ht hk hd => ⟨_, _, exec_tenc_of_pass ht hk hd⟩,
    fun _ ht => exec_of_fault (faultMet_of_tf ht),
    fun _ ht hk => exec_of_fault (faultMet_tripleCommand_of_badKey (dir := .enc) ht hk),
    fun _ ht hk hd => exec_of_fault (faultMet_tripleCommand_of_badBlock (dir := .enc) ht hk hd),
    decode_encode .tenc, not_exists.1 (exists_decode_error_iff.1 ⟨.bankNotZero, rfl⟩), encrypt3_example⟩

/-- Settles O44: as for TENC; the example is that of TENC, undone. -/
theorem tdecCommand : Obligations.TdecCommand :=
  ⟨fun _ ht hk hd => ⟨_, _, exec_tdec_of_pass ht hk hd⟩,
    fun _ ht => exec_of_fault (faultMet_of_tf ht),
    fun _ ht hk => exec_of_fault (faultMet_tripleCommand_of_badKey (dir := .dec) ht hk),
    fun _ ht hk hd => exec_of_fault (faultMet_tripleCommand_of_badBlock (dir := .dec) ht hk hd),
    decode_encode .tdec, not_exists.1 (exists_decode_error_iff.1 ⟨.bankNotZero, rfl⟩),
    encrypt3_example ▸ tripleDes_oppositeDir .enc 0x1234567890ABCDEF 0x1122334455667789 0x8798794535213544⟩

/-- Settles O45: the paths are the rule's once their pieces are joined alike, the end of a command leaves the ERR that the last
Done wrote (`runPath_tripleCommand_err`), and a pass into T is `runPath_passPath_doneToT`. -/
theorem triplePassesRunInOrder : Obligations.TriplePassesRunInOrder := by
  refine ⟨?_, ?_, fun i s hi hf => ?_, runPath_passPath_doneToT, fun _ _ _ _ _ => rfl⟩
  · simp only [commandPath, threePasses, List.append_assoc]
  · simp only [commandPath, threePasses, List.append_assoc]
  · obtain ⟨dir, rfl⟩ : ∃ dir, i = tripleCommand dir := hi.elim (⟨.enc, ·⟩) (⟨.dec, ·⟩)
    rw [exec_of_pass hf, retire_of_err_eq_zero (runPath_tripleCommand_err dir s)]
    exact ⟨_, _, rfl⟩

/-- Settles O46: each of the five commands finds what the ones before it left in the banks, and a result carried to DIN as bits
is read from there as the same block. -/
theorem tripleEqualsSingleCommands : Obligations.TripleEqualsSingleCommands := by
  intro s triple outer inner h ht hk hd
  obtain ⟨dir, rfl, rfl, rfl⟩ : ∃ dir, triple = tripleCommand dir ∧ outer = passCommand dir ∧
      inner = passCommand (oppositeDir dir) := h.elim (⟨.enc, ·⟩) (⟨.dec, ·⟩)
  have hA : (s.keyin.take 64).length = 64 := by simp [hk]
  have hB : (s.keyin.drop 64).length = 64 := by simp [hk]
  refine ⟨_, _, _, _, _, _, exec_tripleCommand_of_pass ht hk hd, exec_expand_of_pass ht hA, exec_expand_of_pass ht hB,
    exec_passCommand_of_pass ht hd rfl, exec_passCommand_of_pass ht (length_toBits _) rfl,
    exec_passCommand_of_pass ht (length_toBits _) rfl, ?_, rfl, rfl, rfl, rfl, rfl, rfl, rfl, rfl, rfl⟩
  simp [tripleDes, keyFrom, bankKeys, loadBank]

/-- Settles O47: the second command finds the keys in KEYIN still and the first one's result in DIN, and its passes undo those of
the first (`tripleDes_oppositeDir`). -/
theorem tripleRoundTrip : Obligations.TripleRoundTrip := by
  intro s first second h ht hk hd
  obtain ⟨dir, rfl, rfl⟩ : ∃ dir, first = tripleCommand dir ∧ second = tripleCommand (oppositeDir dir) :=
    h.elim (⟨.enc, ·⟩) (⟨.dec, ·⟩)
  refine ⟨_, _, exec_tripleCommand_of_pass ht hk hd, exec_tripleCommand_of_pass ht hk (length_toBits _), rfl, ?_⟩
  simp only [retire_dout, ofBits_toBits]
  exact (congrArg toBits (tripleDes_oppositeDir dir _ _ _)).trans (toBits_ofBits hd)

/-- Settles O48: the same argument in both directions (`exec_tripleCommand_of_equalHalves`). -/
theorem equalHalvesAreSingleDes : Obligations.EqualHalvesAreSingleDes :=
  fun _ _ ht hk hd => ⟨exec_tripleCommand_of_equalHalves .enc ht hk hd, exec_tripleCommand_of_equalHalves .dec ht hk hd⟩

end Sys2Proof.Machine
end

section
/-! SUPPORT. The laws that the statements about faults need (60_exceptions.md): which flags the end of a command writes, that a
fault taken before a command changes neither the fault it meets nor its end, and what each read answers. Below them the proofs
of the statements. -/

namespace Sys2Proof.Machine

/-! The flags that the end of a command writes (10_state.md R28, 60_exceptions.md R183). -/

/-- A command that meets no fault leaves ES (60_exceptions.md R183). -/
theorem retire_commandPath_es (i : Instr) (s : State) : (retire (runPath tables (commandPath i) s)).es = s.es := by
  cases i with
  | expand b => rw [retire_expand_eq_loadBank, loadBank_es, retire_es]
  | enc b | dec b => rw [commandPath, retire_pass]
  | tenc | tdec => rw [commandPath, retire_triple]

/-- A block command makes DOUT readable, and EXPAND leaves OV. -/
theorem retire_commandPath_ov (i : Instr) (s : State) :
    (retire (runPath tables (commandPath i) s)).ov = (isBlockCommand i || s.ov) := by
  cases i with
  | expand b => rw [retire_expand_eq_loadBank, loadBank_ov, retire_ov]; rfl
  | enc b | dec b => rw [commandPath, retire_pass]; rfl
  | tenc | tdec => rw [commandPath, retire_triple]; rfl

/-- Once OV is 0, only a block command that succeeds sets it. -/
theorem exec_sets_ov {i : Instr} {s t : State} (h : exec i s = .next t) (hs : s.ov = false) (ht : t.ov = true) :
    isBlockCommand i = true ∧ t.err = 0 := by
  cases hf : faultMet i s with
  | some f =>
    cases (exec_of_fault hf).symm.trans h
    cases ht
  | none =>
    cases (exec_of_pass hf).symm.trans h
    rw [retire_commandPath_ov, hs, Bool.or_false] at ht
    exact ⟨ht, retire_err _⟩

theorem writeCmd_sets_ov {w : BitVec 8} {s t : State} (h : writeCmd w s = .next t) (hs : s.ov = false)
    (ht : t.ov = true) : ∃ i, decode w = .ok i ∧ isBlockCommand i = true ∧ t.err = 0 := by
  by_cases hw : ∃ i, decode w = .ok i
  · obtain ⟨i, hi⟩ := hw
    exact ⟨i, hi, exec_sets_ov ((writeCmd_of_legal hi s).symm.trans h) hs ht⟩
  · cases (writeCmd_of_illegal (not_exists.1 hw) s).symm.trans h
    cases ht

/-- No host action but a command sets OV. -/
theorem perform_sets_ov {a : HostAction} {s t : State} (h : perform a s = .next t) (hs : s.ov = false)
    (ht : t.ov = true) : ∃ w i, a = .writeCmd w ∧ decode w = .ok i ∧ isBlockCommand i = true ∧ t.err = 0 := by
  by_cases hw : ∃ w, a = .writeCmd w
  · obtain ⟨w, rfl⟩ := hw
    obtain ⟨i, hi⟩ := writeCmd_sets_ov h hs ht
    exact ⟨w, i, rfl, hi⟩
  · by_cases hr : a = .reset
    · subst hr
      cases h
      cases ht
    · obtain ⟨k, d, r, rfl⟩ := perform_frame (not_exists.1 hw) hr h
      cases hs.symm.trans ht

theorem step_sets_ov {s t : State} (h : step s = .next t) (hs : s.ov = false) (ht : t.ov = true) :
    ∃ w rest i, s.inbox = .writeCmd w :: rest ∧ decode w = .ok i ∧ isBlockCommand i = true ∧ t.err = 0 := by
  cases hi : s.inbox with
  | nil =>
    cases (step_of_nil hi).symm.trans h
    cases hs.symm.trans ht
  | cons a rest =>
    rw [step_of_cons hi] at h
    obtain ⟨w, i, rfl, hblock⟩ := perform_sets_ov h hs ht
    exact ⟨w, rest, i, rfl, hblock⟩

/-! A command after a fault (60_exceptions.md R184): a fault writes nothing that a command reads. -/

theorem raise_sameInputs (f : Fault) (s : State) : (raise f s).SameInputs s := ⟨rfl, rfl, rfl, rfl, rfl, rfl, rfl⟩

/-- The end of a command is the one without the fault, but for ES, which the fault set, and OV, which it cleared and a block
command sets again. -/
theorem retire_commandPath_raise (i : Instr) (f : Fault) (s : State) :
    retire (runPath tables (commandPath i) (raise f s)) =
      { retire (runPath tables (commandPath i) s) with es := true, ov := isBlockCommand i } := by
  cases i with
  | expand b =>
    rw [retire_expand_eq_loadBank, retire_expand_eq_loadBank]
    cases b <;> rfl
  | enc b | dec b =>
    rw [commandPath, retire_pass, retire_pass, bankKeys_raise]
    rfl
  | tenc | tdec =>
    rw [commandPath, retire_triple, retire_triple]
    rfl

/-! The reads (10_state.md R25, R26, R38, 60_exceptions.md R185). -/

theorem outReply_of_ov_false {s : State} (h : s.ov = false) : outReply s = .refused := by simp [outReply, h]

theorem step_readOut_eq {s : State} {rest : List HostAction} (hi : s.inbox = .readOut :: rest) :
    step s = .next { s with inbox := rest, reply := outReply s } := step_of_cons hi

theorem step_readSubkey_eq {s : State} {rest : List HostAction} {b n : Nat} (hi : s.inbox = .readSubkey b n :: rest) :
    step s = .next { s with inbox := rest, reply := subkeyReply b n s } := by
  rw [step_of_cons hi, perform, subkeyReply_frame b n s s.keyin s.din rest .silent]

/-- A bank that does not exist or holds no schedule, and an index out of range. -/
theorem subkeyReply_refused {b n : Nat} {s : State}
    (h : 1 < b ∨ n < 1 ∨ 16 < n ∨ (b = 0 ∧ s.kv0 = false) ∨ (b = 1 ∧ s.kv1 = false)) :
    subkeyReply b n s = .refused := by
  match b with
  | 0 | 1 =>
    refine if_neg fun ⟨hv, h1, h16⟩ => ?_
    simp only [bankValid] at hv
    have hn : n < 1 ∨ 16 < n := by simpa [hv] using h
    omega
  | b + 2 => rfl

/-! The statements about 60_exceptions.md. -/

/-- Settles O49: an illegal word is `illegalWordIsInvalidCommand`; a legal command takes the fault it meets (`exec_of_fault`)
or comes to its end, which leaves ES (`retire_commandPath_es`); and of all host actions a block command that succeeds alone sets
OV (`step_sets_ov`). -/
theorem faultsInPriorityOrder : Obligations.FaultsInPriorityOrder := by
  refine ⟨illegalWordIsInvalidCommand.2, fun i s f => exec_of_fault, fun i s t hf h => ?_,
    fun s => outReply_of_ov_false, fun s t hs h => step_sets_ov h hs⟩
  cases (exec_of_pass hf).symm.trans h
  exact ⟨retire_err _, retire_commandPath_es i s⟩

/-- Settles O51: a fault leaves all the inputs of the next command (`raise_sameInputs`), so that the command meets the same
fault, or comes to the same end but for ES and OV (`retire_commandPath_raise`). -/
theorem commandsRunNormallyAfterAFault : Obligations.CommandsRunNormallyAfterAFault := by
  refine ⟨fun i s f => exec_of_fault, fun w s hw => writeCmd_of_illegal hw s, fun f j s => ?_⟩
  have hfault : faultMet j (raise f s) = faultMet j s := (raise_sameInputs f s).faultMet_eq j
  exact ⟨hfault, fun hf => ⟨_, _, _, exec_of_pass hf, retire_err _,
    (exec_of_pass (hfault.trans hf)).trans (congrArg _ (retire_commandPath_raise j f s))⟩⟩

/-- Settles O15: each read answers by its own rule and writes the answer only (`step_readOut_eq`, `step_readSubkey_eq`). -/
theorem readsAnswerOrAreRefused : Obligations.ReadsAnswerOrAreRefused := by
  refine ⟨fun s rest hi => ⟨step_readOut hi, fun hv => ?_⟩,
    fun s rest b n hi => ⟨fun bk hb hv i hn => ?_, fun h => ?_⟩, fun s rest hi => step_of_cons hi⟩
  · rw [step_readOut_eq hi, outReply_of_ov_false hv]
  · subst hn
    rw [step_readSubkey_eq hi, subkeyReply_of_valid hb hv i]
  · rw [step_readSubkey_eq hi, subkeyReply_refused h]

end Sys2Proof.Machine
end

section
/-! SUPPORT. The laws that the statements about the engine as a whole need (10_state.md): what a command that succeeds writes, as
one equation, and what one host action, and so one step, can make of the engine, as one case analysis. -/

namespace Sys2Proof.Machine

/-! The end of a command as one write of the registers it names (10_state.md R28, R34). -/

/-- What a command that meets no fault writes, besides ERR, SEQ and the registers that hold no value afterwards. -/
def commandWrites : Instr → State → State
  | .expand b, s => loadBank b (expand tables (keyFrom .whole s)) s
  | .enc b, s => { s with dout := desPass tables (blockFrom .din s) (bankKeys b s) .enc, ov := true }
  | .dec b, s => { s with dout := desPass tables (blockFrom .din s) (bankKeys b s) .dec, ov := true }
  | .tenc, s =>
    { s with
      ks0 := expand tables (keyFrom .keyA s), kv0 := true, ks1 := expand tables (keyFrom .keyB s), kv1 := true
      dout := encrypt3 tables (blockFrom .din s) (keyFrom .keyA s) (keyFrom .keyB s), ov := true }
  | .tdec, s =>
    { s with
      ks0 := expand tables (keyFrom .keyA s), kv0 := true, ks1 := expand tables (keyFrom .keyB s), kv1 := true
      dout := decrypt3 tables (blockFrom .din s) (keyFrom .keyA s) (keyFrom .keyB s), ov := true }

theorem retire_commandPath (i : Instr) (s : State) :
    retire (runPath tables (commandPath i) s) = retire (commandWrites i s) := by
  cases i with
  | expand b =>
    rw [retire_expand]
    cases b <;> rfl
  | enc b | dec b =>
    rw [commandPath, retire_pass]
    rfl
  | tenc | tdec =>
    rw [commandPath, retire_triple]
    rfl

@[simp] theorem commandWrites_keyin (i : Instr) (s : State) : (commandWrites i s).keyin = s.keyin := by
  cases i <;> simp [commandWrites]
@[simp] theorem commandWrites_din (i : Instr) (s : State) : (commandWrites i s).din = s.din := by
  cases i <;> simp [commandWrites]
@[simp] theorem commandWrites_es (i : Instr) (s : State) : (commandWrites i s).es = s.es := by
  cases i <;> simp [commandWrites]
@[simp] theorem commandWrites_tf (i : Instr) (s : State) : (commandWrites i s).tf = s.tf := by
  cases i <;> simp [commandWrites]
@[simp] theorem commandWrites_ov (i : Instr) (s : State) : (commandWrites i s).ov = (isBlockCommand i || s.ov) := by
  cases i <;> simp [commandWrites, isBlockCommand]

/-- Only a block command writes DOUT. -/
theorem commandWrites_dout_of_not_block {i : Instr} (h : isBlockCommand i = false) (s : State) :
    (commandWrites i s).dout = s.dout := by
  cases i with
  | expand b => exact loadBank_dout b _ s
  | enc b | dec b | tenc | tdec => cases h

/-- The key whose schedule a command writes to a bank; none when it leaves the bank alone (10_state.md R26). -/
def bankSource : Instr → Bank → Option KeySource
  | .expand a, b => if b = a then some .whole else none
  | .enc _, _ | .dec _, _ => none
  | .tenc, .bank0 | .tdec, .bank0 => some .keyA
  | .tenc, .bank1 | .tdec, .bank1 => some .keyB

theorem bankKeys_commandWrites (i : Instr) (b : Bank) (s : State) :
    bankKeys b (commandWrites i s) =
      (bankSource i b).elim (bankKeys b s) fun src => expand tables (keyFrom src s) := by
  cases i with
  | expand a =>
    rw [commandWrites, bankKeys_loadBank, bankSource]
    split <;> rfl
  | enc a | dec a | tenc | tdec => cases b <;> rfl

theorem bankValid_commandWrites (i : Instr) (b : Bank) (s : State) :
    bankValid b (commandWrites i s) = ((bankSource i b).isSome || bankValid b s) := by
  cases i with
  | expand a =>
    rw [commandWrites, bankValid_loadBank, bankSource]
    split <;> rfl
  | enc a | dec a | tenc | tdec => cases b <;> rfl

/-- A bank stays valid under a command that succeeds. -/
theorem bankValid_commandWrites_of_valid (i : Instr) {b : Bank} {s : State} (h : bankValid b s = true) :
    bankValid b (commandWrites i s) = true := by
  rw [bankValid_commandWrites, h, Bool.or_true]

/-- Whatever a command does, it takes the fault that it meets, or writes what is its own and ends. -/
theorem exec_cases {i : Instr} {s t : State} (h : exec i s = .next t) :
    (∃ f, faultMet i s = some f ∧ t = raise f s) ∨ (faultMet i s = none ∧ t = retire (commandWrites i s)) := by
  cases hf : faultMet i s with
  | some f =>
    cases (exec_of_fault hf).symm.trans h
    exact .inl ⟨f, rfl, rfl⟩
  | none =>
    cases (exec_of_pass hf).symm.trans h
    exact .inr ⟨rfl, retire_commandPath i s⟩

theorem exec_next (i : Instr) (s : State) : ∃ t, exec i s = .next t := by
  cases hf : faultMet i s with
  | some f => exact ⟨_, exec_of_fault hf⟩
  | none => exact ⟨_, exec_of_pass hf⟩

/-! What one host action does to the engine, and so what one step does (10_state.md R38, 20_memory.md R59). -/

/-- What the host action `a` can make of the engine: the list of actions is as it was, and of a command nothing is said but that
it faults or succeeds. -/
inductive HostEffect (s : State) : HostAction → State → Prop where
  | reset : HostEffect s .reset (resetEngine s)
  | keyWritten {bits : Bits} (fits : bits.length ≤ Config.operandMaxBits) :
    HostEffect s (.writeKey bits) { s with keyin := bits }
  | blockWritten {bits : Bits} (fits : bits.length ≤ Config.operandMaxBits) :
    HostEffect s (.writeBlock bits) { s with din := bits }
  | faulted (w : BitVec 8) (f : Fault) : HostEffect s (.writeCmd w) (raise f s)
  | succeeded (w : BitVec 8) {i : Instr} (noFault : faultMet i s = none) :
    HostEffect s (.writeCmd w) (retire (commandWrites i s))
  | answered (a : HostAction) (r : Reply) : HostEffect s a { s with reply := r }

theorem writeCmd_effect {w : BitVec 8} {s t : State} (h : writeCmd w s = .next t) : HostEffect s (.writeCmd w) t := by
  by_cases hw : ∃ i, decode w = .ok i
  · obtain ⟨i, hi⟩ := hw
    obtain ⟨f, -, rfl⟩ | ⟨hf, rfl⟩ := exec_cases ((writeCmd_of_legal hi s).symm.trans h)
    · exact .faulted w f
    · exact .succeeded w hf
  · cases (writeCmd_of_illegal (not_exists.1 hw) s).symm.trans h
    exact .faulted w .invalidCommand

theorem perform_effect {a : HostAction} {s t : State} (h : perform a s = .next t) : HostEffect s a t := by
  cases a with
  | reset => cases h; exact .reset
  | writeKey bits =>
    cases h
    unfold writeKey
    split
    next hfits => exact .keyWritten hfits
    next => exact .answered _ _
  | writeBlock bits =>
    cases h
    unfold writeBlock
    split
    next hfits => exact .blockWritten hfits
    next => exact .answered _ _
  | writeCmd w => exact writeCmd_effect h
  | readStatus | readOut | readSubkey _ _ | readCmd => cases h; exact .answered _ _

/-- A step takes the action at the front of the list, the answer before it gone, or has none to take. -/
theorem step_effect {s t : State} (h : step s = .next t) :
    (s.inbox = [] ∧ t = s) ∨
      ∃ a rest, s.inbox = a :: rest ∧ HostEffect { s with inbox := rest, reply := .silent } a t := by
  cases hi : s.inbox with
  | nil =>
    cases (step_of_nil hi).symm.trans h
    exact .inl ⟨rfl, rfl⟩
  | cons a rest =>
    rw [step_of_cons hi] at h
    exact .inr ⟨a, rest, rfl, perform_effect h⟩

theorem perform_next (a : HostAction) (s : State) : ∃ t, perform a s = .next t := by
  cases a with
  | writeCmd w =>
    by_cases hw : ∃ i, decode w = .ok i
    · obtain ⟨i, hi⟩ := hw
      rw [perform, writeCmd_of_legal hi]
      exact exec_next i s
    · exact ⟨_, writeCmd_of_illegal (not_exists.1 hw) s⟩
  | _ => exact ⟨_, rfl⟩

theorem step_next (s : State) : ∃ t, step s = .next t := by
  cases hi : s.inbox with
  | nil => exact ⟨s, step_of_nil hi⟩
  | cons a rest =>
    rw [step_of_cons hi]
    exact perform_next a _

end Sys2Proof.Machine
end

section
/-! SUPPORT. The laws that the statements about registers, flags and reset need (10_state.md, 70_reset_and_hazards.md):
which flags and operands a host action leaves alone, which bank a command writes and from which key, what a reset leaves, and the
bits of STATUS. Below them the proofs of the statements. -/

namespace Sys2Proof.Machine

/-! Flags and operands over a host action that is no reset. -/

/-- No host action but a reset takes a valid flag back, clears ES, or writes TF. -/
theorem HostEffect.keepsFlags {a : HostAction} {s t : State} (h : HostEffect s a t) (ha : a ≠ .reset) :
    (s.kv0 = true → t.kv0 = true) ∧ (s.kv1 = true → t.kv1 = true) ∧ (s.es = true → t.es = true) ∧ t.tf = s.tf := by
  cases h with
  | reset => exact absurd rfl ha
  | keyWritten | blockWritten | answered => exact ⟨id, id, id, rfl⟩
  | faulted w f => exact ⟨id, id, fun _ => rfl, rfl⟩
  | succeeded w noFault =>
    refine ⟨bankValid_commandWrites_of_valid _ (b := .bank0), bankValid_commandWrites_of_valid _ (b := .bank1), ?_, ?_⟩
    · rw [retire_es, commandWrites_es]
      exact id
    · rw [retire_tf, commandWrites_tf]

theorem exec_operands {i : Instr} {s t : State} (h : exec i s = .next t) : t.keyin = s.keyin ∧ t.din = s.din := by
  obtain ⟨f, -, rfl⟩ | ⟨-, rfl⟩ := exec_cases h
  · exact ⟨rfl, rfl⟩
  · simp

/-- KEYIN is written by WriteKey and DIN by WriteBlock, and by a reset. -/
theorem HostEffect.keepsOperands {a : HostAction} {s t : State} (h : HostEffect s a t) (ha : a ≠ .reset) :
    ((∀ bits, a ≠ .writeKey bits) → t.keyin = s.keyin) ∧ ((∀ bits, a ≠ .writeBlock bits) → t.din = s.din) := by
  cases h with
  | reset => exact absurd rfl ha
  | keyWritten => exact ⟨fun hk => absurd rfl (hk _), fun _ => rfl⟩
  | blockWritten => exact ⟨fun _ => rfl, fun hb => absurd rfl (hb _)⟩
  | faulted | answered => exact ⟨fun _ => rfl, fun _ => rfl⟩
  | succeeded => simp

/-! Banks and the result after a command (10_state.md R25, R26). -/

/-- Which command writes which bank, and from which key. -/
theorem bankSource_eq_some {i : Instr} {b : Bank} {src : KeySource} (h : bankSource i b = some src) :
    (i = .expand b ∧ src = .whole) ∨ ((i = .tenc ∨ i = .tdec) ∧ b = .bank0 ∧ src = .keyA) ∨
      ((i = .tenc ∨ i = .tdec) ∧ b = .bank1 ∧ src = .keyB) := by
  cases i with
  | expand a =>
    obtain ⟨rfl, hsrc⟩ : b = a ∧ .whole = src := by simpa [bankSource] using h
    exact .inl ⟨rfl, hsrc.symm⟩
  | enc a | dec a => cases h
  | tenc | tdec => cases b <;> cases h <;> simp

/-! The fault codes (60_exceptions.md R177). -/

/-- The codes of the faults are 1 to 5 (60_exceptions.md R177). -/
theorem faultCode_range (f : Fault) : faultCode f ≠ 0 ∧ faultCode f ≤ 5#3 := by
  cases f with
  | invalidInputLength a => cases a <;> decide
  | keyNotLoaded b => cases b <;> decide
  | invalidTableIndex | invalidCommand => decide

/-! Reset (10_state.md R39, 70_reset_and_hazards.md R200). -/

/-- The engine holds no operand, no result, no schedule and no fault, and reads of DOUT and of every subkey are refused. -/
def State.Empty (s : State) : Prop :=
  s.keyin = [] ∧ s.din = [] ∧ s.ov = false ∧ s.kv0 = false ∧ s.kv1 = false ∧ s.err = 0 ∧
    s.es = false ∧ s.tf = false ∧ s.seq = .idle ∧ statusWord s = 0x00 ∧ outReply s = .refused ∧
    ∀ b n, subkeyReply b n s = .refused

/-- Reads of the banks are refused while neither is valid. -/
theorem subkeyReply_of_noBank {s : State} (h0 : s.kv0 = false) (h1 : s.kv1 = false) (b n : Nat) :
    subkeyReply b n s = .refused := by
  refine subkeyReply_refused ?_
  simp only [h0, h1, and_true]
  omega

theorem reset_tf : State.reset.tf = false := (tableFault_eq_false_iff tables).2 ((shapesOk_iff tables).1 shapesOk_tables)

theorem empty_resetEngine (s : State) : (resetEngine s).Empty := by
  have hstatus : statusWord (resetEngine s) = BitVec.ofBool State.reset.tf ++ 0#3 ++ 0#1 ++ 0#1 ++ 0#1 ++ 0#1 := rfl
  rw [reset_tf] at hstatus
  exact ⟨rfl, rfl, rfl, rfl, rfl, rfl, rfl, reset_tf, rfl, hstatus, rfl, subkeyReply_of_noBank rfl rfl⟩

/-! STATUS (10_state.md R28). -/

/-- Where the six fields of STATUS lie in the word that joins them (10_state.md R28). -/
theorem joinedFlags_bits : ∀ (tf : Bool) (err : BitVec 3) (es ov kv1 kv0 : Bool),
    let w : BitVec 8 := BitVec.ofBool tf ++ err ++ BitVec.ofBool es ++ BitVec.ofBool ov ++ BitVec.ofBool kv1 ++
      BitVec.ofBool kv0
    w.getLsbD 0 = kv0 ∧ w.getLsbD 1 = kv1 ∧ w.getLsbD 2 = ov ∧ w.getLsbD 3 = es ∧ w.extractLsb' 4 3 = err ∧
      w.getLsbD 7 = tf := by decide

/-! The statements about 10_state.md and 70_reset_and_hazards.md. -/

/-- Settles O7: a command takes its fault or comes to its end, and every other host action has an effect. -/
theorem nothingStopsTheEngine : Obligations.NothingStopsTheEngine := ⟨exec_next, step_next⟩

/-- Settles O9: nothing that a host action but a reset can do takes one of the flags back (`HostEffect.keepsFlags`). -/
theorem onlyResetClearsStickyFlags : Obligations.OnlyResetClearsStickyFlags := by
  intro s t hr h
  obtain ⟨-, rfl⟩ | ⟨a, rest, hi, heffect⟩ := step_effect h
  · exact ⟨id, id, id, rfl⟩
  · exact heffect.keepsFlags (by simpa [hi] using hr)

/-- Settles O12: of what a host action but a reset can do, only the two operand writes write an operand
(`HostEffect.keepsOperands`). -/
theorem commandsLeaveOperandsAlone : Obligations.CommandsLeaveOperandsAlone := by
  refine ⟨fun i s t => exec_operands, fun s t h hr => ?_⟩
  obtain ⟨-, rfl⟩ | ⟨a, rest, hi, heffect⟩ := step_effect h
  · exact ⟨fun _ => rfl, fun _ => rfl⟩
  · simpa [hi] using heffect.keepsOperands (by simpa [hi] using hr)

/-- Settles O13: a fault leaves both banks, and a command that succeeds writes those that `bankSource` names, each as a whole. -/
theorem banksAreWrittenWhole : Obligations.BanksAreWrittenWhole := by
  intro i s t b h
  obtain ⟨f, -, rfl⟩ | ⟨-, rfl⟩ := exec_cases h
  · exact .inl ⟨bankKeys_raise b f s, bankValid_raise b f s⟩
  · rw [bankKeys_retire, bankValid_retire, bankKeys_commandWrites, bankValid_commandWrites]
    cases hsrc : bankSource i b with
    | none => exact .inl ⟨rfl, rfl⟩
    | some src =>
      refine .inr ⟨rfl, rfl, ?_⟩
      obtain ⟨hi, rfl⟩ | ⟨hi, hb, rfl⟩ | ⟨hi, hb, rfl⟩ := bankSource_eq_some hsrc
      · exact .inl ⟨hi, rfl⟩
      · exact .inr (.inl ⟨hi, hb, rfl⟩)
      · exact .inr (.inr ⟨hi, hb, rfl⟩)

/-- Settles O14: a fault leaves DOUT and writes a code other than 0; a block command that succeeds sets OV, and EXPAND leaves
DOUT and OV. -/
theorem resultComesFromASuccessfulBlockCommand : Obligations.ResultComesFromASuccessfulBlockCommand := by
  intro i s t h
  obtain ⟨f, -, rfl⟩ | ⟨-, rfl⟩ := exec_cases h
  · exact ⟨fun hd => absurd rfl hd, fun _ _ => (faultCode_range f).1⟩
  · rw [retire_dout, retire_ov, commandWrites_ov]
    cases hi : isBlockCommand i with
    | true => exact ⟨fun _ => ⟨rfl, rfl, rfl⟩, nofun⟩
    | false =>
      exact ⟨fun hd => absurd (commandWrites_dout_of_not_block hi s) hd, fun hs ht => Bool.noConfusion (hs.symm.trans ht)⟩

/-- Settles O6: `withFetchWord` puts the write of the word in front of the list, so the second clause is the first one there. -/
theorem stepRunsTheDecodedCommand : Obligations.StepRunsTheDecodedCommand := by
  have hrun : ∀ (s : State) (w : BitVec 8) (rest : List HostAction) (i : Instr), s.inbox = .writeCmd w :: rest →
      decode w = .ok i → step s = exec i { s with inbox := rest, reply := .silent } := fun s w rest i hi hw => by
    rw [step_of_cons hi, perform, writeCmd_of_legal hw]
  refine ⟨hrun, fun s w i hw => hrun (s.withFetchWord 8 w.toNat) w s.inbox i ?_ hw⟩
  rw [State.withFetchWord, BitVec.ofNat_toNat, BitVec.setWidth_eq]

/-- Settles O8: at power-on the engine is what `Reset` makes of any engine, and that is empty (`empty_resetEngine`). -/
theorem resetLeavesAnEmptyEngine : Obligations.ResetLeavesAnEmptyEngine := by
  constructor
  · intro s hs
    rw [List.mem_singleton.1 hs]
    exact empty_resetEngine State.reset
  · intro s rest hi
    obtain ⟨hkey, hdin, hov, hkv0, hkv1, herr, hes, htf, hseq, hstatus, hout, hsubkey⟩ :=
      empty_resetEngine { s with inbox := rest, reply := .silent }
    exact ⟨_, step_of_cons hi, hkey, hdin, hov, hkv0, hkv1, herr, hes, htf, hseq, hstatus, hout, hsubkey, rfl⟩

/-- Settles O10: STATUS is the six fields joined (`joinedFlags_bits`). -/
theorem statusIsAViewOfTheFlags : Obligations.StatusIsAViewOfTheFlags :=
  ⟨fun s => joinedFlags_bits s.tf s.err s.es s.ov s.kv1 s.kv0, fun _ _ hi => step_of_cons hi⟩

/-- Settles O11: the bound decides which of its two cases an operand write is. -/
theorem operandWritesReplaceTheRegister : Obligations.OperandWritesReplaceTheRegister := by
  refine ⟨le_operandMaxBits le_rfl, fun s bits rest hi => ⟨fun hl => ?_, fun hl => ?_⟩,
    fun s bits rest hi => ⟨fun hl => ?_, fun hl => ?_⟩⟩
  · rw [step_of_cons hi, perform, writeKey_fits _ _ hl]
  · rw [step_of_cons hi, perform, writeKey_refused _ _ hl]
  · rw [step_of_cons hi, perform, writeBlock_fits _ _ hl]
  · rw [step_of_cons hi, perform, writeBlock_refused _ _ hl]

/-- Settles O50: the fields of STATUS (O10) are the flags that `raise` writes. -/
theorem faultCodesInStatus : Obligations.FaultCodesInStatus := by
  intro s f
  obtain ⟨-, -, hov, hes, herr, -⟩ := statusIsAViewOfTheFlags.1 (raise f s)
  refine ⟨herr.trans ?_, hes, hov⟩
  cases f with
  | invalidInputLength a => cases a <;> rfl
  | _ => rfl

end Sys2Proof.Machine
end

section
/-! SUPPORT. The laws that the statements about the whole machine need: everything that a host action can do keeps `State.Inv`,
and does the same to two engines that are the same to the host. Below them the proofs of the statements. -/

namespace Sys2Proof.Machine

/-! The invariant of a run (`State.Inv`). -/

/-- Every bank that is valid holds the schedule of some key (30_encoding.md R81). -/
theorem State.Inv.bankExpanded {s : State} (h : s.Inv) : ∀ b, bankValid b s = true → ∃ key, bankKeys b s = expand tables key
  | .bank0 => h.bank0Expanded
  | .bank1 => h.bank1Expanded

theorem exists_bankValid_iff (s : State) : (∃ b, bankValid b s = true) ↔ s.kv0 = true ∨ s.kv1 = true := by
  constructor
  · rintro ⟨b, hb⟩
    cases b
    · exact .inl hb
    · exact .inr hb
  · rintro (h | h)
    · exact ⟨.bank0, h⟩
    · exact ⟨.bank1, h⟩

theorem State.Inv.reset : State.reset.Inv where
  seqIdle := rfl
  errProduced := by decide
  errSeen h := absurd rfl h
  resultAfterSuccess := nofun
  resultHasKey := nofun
  bank0Expanded := nofun
  bank1Expanded := nofun
  tableFlag := rfl
  keyinFits := Nat.zero_le _
  dinFits := Nat.zero_le _

theorem State.Inv.raise {s : State} (h : s.Inv) (f : Fault) : (raise f s).Inv :=
  { h with
    seqIdle := rfl
    errProduced := (faultCode_range f).2
    errSeen := fun _ => rfl
    resultAfterSuccess := nofun
    resultHasKey := nofun }

/-- A block command that meets no fault leaves a valid bank: the one it read, or those it wrote. -/
theorem exists_bankValid_commandWrites {i : Instr} {s : State} (hi : isBlockCommand i = true) (hf : faultMet i s = none) :
    ∃ b, bankValid b (commandWrites i s) = true := by
  cases i with
  | expand b => cases hi
  | enc b | dec b =>
    have hv : bankValid b s = true := bankValid_of_faultMet_eq_none (by simp) hf
    exact ⟨b, bankValid_commandWrites_of_valid _ hv⟩
  | tenc | tdec => exact ⟨.bank0, rfl⟩

theorem State.Inv.bankExpanded_commandWrites {s : State} (h : s.Inv) (i : Instr) (b : Bank)
    (hv : bankValid b (commandWrites i s) = true) : ∃ key, bankKeys b (commandWrites i s) = expand tables key := by
  rw [bankValid_commandWrites] at hv
  rw [bankKeys_commandWrites]
  cases hsrc : bankSource i b with
  | some src => exact ⟨_, rfl⟩
  | none => exact h.bankExpanded b (by simpa [hsrc] using hv)

theorem State.Inv.retire_commandWrites {s : State} (h : s.Inv) {i : Instr} (hf : faultMet i s = none) :
    (retire (commandWrites i s)).Inv where
  seqIdle := rfl
  errProduced := by simp
  errSeen h := absurd rfl h
  resultAfterSuccess _ := rfl
  resultHasKey hov := by
    refine (exists_bankValid_iff (commandWrites i s)).1 ?_
    cases hi : isBlockCommand i with
    | true => exact exists_bankValid_commandWrites hi hf
    | false =>
      obtain ⟨b, hb⟩ := (exists_bankValid_iff s).2 (h.resultHasKey (by simpa [hi] using hov))
      exact ⟨b, bankValid_commandWrites_of_valid i hb⟩
  bank0Expanded := h.bankExpanded_commandWrites i .bank0
  bank1Expanded := h.bankExpanded_commandWrites i .bank1
  tableFlag := by simpa using h.tableFlag
  keyinFits := by simpa using h.keyinFits
  dinFits := by simpa using h.dinFits

theorem HostEffect.inv {a : HostAction} {s t : State} (h : HostEffect s a t) (hs : s.Inv) : t.Inv := by
  cases h with
  | reset => exact { State.Inv.reset with }
  | keyWritten fits => exact { hs with keyinFits := fits }
  | blockWritten fits => exact { hs with dinFits := fits }
  | faulted w f => exact hs.raise f
  | succeeded w noFault => exact hs.retire_commandWrites noFault
  | answered a r => exact { hs with }

/-! What the host cannot see (`State.SameToHost`; 10_state.md R25, R27, R34). -/

namespace State.SameToHost

variable {s t : State}

theorem bankValid_eq (h : s.SameToHost t) : ∀ b, bankValid b s = bankValid b t
  | .bank0 => h.kv0
  | .bank1 => h.kv1

theorem bankKeys_eq (h : s.SameToHost t) : ∀ {b}, bankValid b s = true → bankKeys b s = bankKeys b t
  | .bank0 => h.ks0
  | .bank1 => h.ks1

theorem keyFrom_eq (h : s.SameToHost t) (src : KeySource) : keyFrom src s = keyFrom src t := by
  cases src <;> simp only [keyFrom, h.keyin]

theorem faultMet_eq (h : s.SameToHost t) (i : Instr) : faultMet i s = faultMet i t := by
  cases i <;> simp only [faultMet, h.tf, h.keyin, h.din, h.bankValid_eq]

theorem raise (h : s.SameToHost t) (f : Fault) : (raise f s).SameToHost (raise f t) :=
  { h with ov := rfl, dout := nofun, err := rfl, es := rfl }

theorem retire (h : s.SameToHost t) : (retire s).SameToHost (retire t) := { h with err := rfl }

theorem loadBank (h : s.SameToHost t) (b : Bank) (ks : Schedule) : (loadBank b ks s).SameToHost (loadBank b ks t) := by
  cases b with
  | bank0 => exact { h with kv0 := rfl, ks0 := fun _ => rfl }
  | bank1 => exact { h with kv1 := rfl, ks1 := fun _ => rfl }

/-- Writing a result over one that may not be the same. -/
theorem writeResult (h : s.SameToHost t) (v : Block) :
    State.SameToHost { s with dout := v, ov := true } { t with dout := v, ov := true } :=
  { h with ov := rfl, dout := fun _ => rfl }

/-- Writing a result and both banks. -/
theorem writeBanksAndResult (h : s.SameToHost t) (ks ks' : Schedule) (v : Block) :
    State.SameToHost { s with ks0 := ks, kv0 := true, ks1 := ks', kv1 := true, dout := v, ov := true }
      { t with ks0 := ks, kv0 := true, ks1 := ks', kv1 := true, dout := v, ov := true } :=
  { h with kv0 := rfl, ks0 := fun _ => rfl, kv1 := rfl, ks1 := fun _ => rfl, ov := rfl, dout := fun _ => rfl }

/-- A command that succeeds writes what it makes of the operands and of a bank that is valid. -/
theorem commandWrites (h : s.SameToHost t) {i : Instr} (hf : faultMet i s = none) :
    (commandWrites i s).SameToHost (commandWrites i t) := by
  have hblock : blockFrom .din s = blockFrom .din t := congrArg (ofBits 64) h.din
  cases i with
  | expand b =>
    rw [Machine.commandWrites, Machine.commandWrites, h.keyFrom_eq]
    exact h.loadBank b _
  | enc b | dec b =>
    rw [Machine.commandWrites, Machine.commandWrites, hblock,
      h.bankKeys_eq (b := b) (bankValid_of_faultMet_eq_none (by simp) hf)]
    exact h.writeResult _
  | tenc | tdec =>
    rw [Machine.commandWrites, Machine.commandWrites, hblock, h.keyFrom_eq, h.keyFrom_eq]
    exact h.writeBanksAndResult _ _ _

theorem statusWord_eq (h : s.SameToHost t) : statusWord s = statusWord t := by
  simp only [statusWord, h.tf, h.err, h.es, h.ov, h.kv1, h.kv0]

theorem outReply_eq (h : s.SameToHost t) : outReply s = outReply t := by
  unfold outReply
  rw [← h.ov]
  split
  next hov => rw [h.dout hov]
  next => rfl

theorem subkeyReply_eq (h : s.SameToHost t) (b n : Nat) : subkeyReply b n s = subkeyReply b n t := by
  unfold subkeyReply
  cases bankOfNumber b with
  | none => rfl
  | some bk =>
    simp only [← h.bankValid_eq bk]
    split
    next hread =>
      obtain ⟨hv, -⟩ := hread
      rw [h.bankKeys_eq hv]
    next => rfl

theorem answer (h : s.SameToHost t) (r : Reply) : State.SameToHost { s with reply := r } { t with reply := r } :=
  { h with reply := rfl }

theorem writeKey (h : s.SameToHost t) (bits : Bits) : (writeKey bits s).SameToHost (writeKey bits t) := by
  unfold Machine.writeKey
  split
  · exact { h with keyin := rfl }
  · exact h.answer _

theorem writeBlock (h : s.SameToHost t) (bits : Bits) : (writeBlock bits s).SameToHost (writeBlock bits t) := by
  unfold Machine.writeBlock
  split
  · exact { h with din := rfl }
  · exact h.answer _

theorem resetEngine (h : s.SameToHost t) : (resetEngine s).SameToHost (resetEngine t) :=
  ⟨rfl, rfl, rfl, fun _ => rfl, rfl, fun _ => rfl, rfl, fun _ => rfl, rfl, rfl, rfl, h.inbox, rfl⟩

theorem exec (h : s.SameToHost t) (i : Instr) :
    ∃ s' t', exec i s = .next s' ∧ exec i t = .next t' ∧ s'.SameToHost t' := by
  have hft : faultMet i s = faultMet i t := h.faultMet_eq i
  cases hf : faultMet i s with
  | some f => exact ⟨_, _, exec_of_fault hf, exec_of_fault (hft ▸ hf), h.raise f⟩
  | none =>
    refine ⟨_, _, exec_of_pass hf, exec_of_pass (hft ▸ hf), ?_⟩
    rw [retire_commandPath, retire_commandPath]
    exact (h.commandWrites hf).retire

theorem writeCmd (h : s.SameToHost t) (w : BitVec 8) :
    ∃ s' t', writeCmd w s = .next s' ∧ writeCmd w t = .next t' ∧ s'.SameToHost t' := by
  by_cases hw : ∃ i, decode w = .ok i
  · obtain ⟨i, hi⟩ := hw
    rw [writeCmd_of_legal hi, writeCmd_of_legal hi]
    exact h.exec i
  · have hill := not_exists.1 hw
    exact ⟨_, _, writeCmd_of_illegal hill s, writeCmd_of_illegal hill t, h.raise .invalidCommand⟩

/-- Every host action gives the same answer on both and keeps them the same to the host. -/
theorem perform (h : s.SameToHost t) (a : HostAction) :
    ∃ s' t', perform a s = .next s' ∧ perform a t = .next t' ∧ s'.SameToHost t' := by
  cases a with
  | reset => exact ⟨_, _, rfl, rfl, h.resetEngine⟩
  | writeKey bits => exact ⟨_, _, rfl, rfl, h.writeKey bits⟩
  | writeBlock bits => exact ⟨_, _, rfl, rfl, h.writeBlock bits⟩
  | writeCmd w => exact h.writeCmd w
  | readStatus => exact ⟨_, _, rfl, rfl, h.statusWord_eq ▸ h.answer _⟩
  | readOut => exact ⟨_, _, rfl, rfl, h.outReply_eq ▸ h.answer _⟩
  | readSubkey b n => exact ⟨_, _, rfl, rfl, h.subkeyReply_eq b n ▸ h.answer _⟩
  | readCmd => exact ⟨_, _, rfl, rfl, h.answer .refused⟩

theorem step (h : s.SameToHost t) : ∃ s' t', step s = .next s' ∧ step t = .next t' ∧ s'.SameToHost t' := by
  cases hi : s.inbox with
  | nil => exact ⟨s, t, step_of_nil hi, step_of_nil (h.inbox ▸ hi), h⟩
  | cons a rest =>
    have htaken : State.SameToHost { s with inbox := rest, reply := .silent } { t with inbox := rest, reply := .silent } :=
      { h with inbox := rfl, reply := rfl }
    rw [step_of_cons hi, step_of_cons (h.inbox ▸ hi)]
    exact htaken.perform a

end State.SameToHost

/-! The statements about the whole machine. -/

/-- Settles O52: the invariant says nothing of the list and the answer, and each of the things that a host action can do keeps it
(`HostEffect.inv`). -/
theorem stepKeepsInvariant : Obligations.StepKeepsInvariant := by
  intro s t hs h
  obtain ⟨-, rfl⟩ | ⟨a, rest, -, heffect⟩ := step_effect h
  · exact hs
  · exact heffect.inv { hs with }

/-- Settles O53: no flag is set, no operand is held, and TF is the check's. -/
theorem resetMeetsInvariant : Obligations.ResetMeetsInvariant := State.Inv.reset

/-- Settles O54: both engines take the same action, meet the same faults, and write the same values wherever the host can look. -/
theorem valuelessStateIsNeverObserved : Obligations.ValuelessStateIsNeverObserved := fun _ _ h => h.step

end Sys2Proof.Machine
end

section
/-! SUPPORT. The laws that the remaining statements about command words and script lines need (30_encoding.md): the fields
behind each rejection, and where the digits of a hexadecimal operand lie. Below them the proofs of the statements. -/

namespace Sys2Proof.Machine

/-- The fields of a command fail no check. -/
theorem malformed_fields (i : Instr) : i.fields.malformed = none := by
  cases i with
  | expand b | enc b | dec b => cases b <;> rfl
  | tenc | tdec => rfl

/-- An operation that no arm of the decoder reads, whatever the bank, is unknown (30_encoding.md R74). -/
theorem unknownOp_of_no_arm {op : BitVec 3} {b : Bank} (h1 : op.toNat ≠ 1) (h2 : op.toNat ≠ 2) (h3 : op.toNat ≠ 3)
    (h4 : op.toNat = 4 → b = .bank0 → False) (h4' : op.toNat = 4 → b = .bank1 → False)
    (h5 : op.toNat = 5 → b = .bank0 → False) (h5' : op.toNat = 5 → b = .bank1 → False) : op = 0 ∨ op = 6 ∨ op = 7 := by
  have hlt := op.isLt
  have hop4 : op.toNat ≠ 4 := fun h => by cases b; exacts [h4 h rfl, h4' h rfl]
  have hop5 : op.toNat ≠ 5 := fun h => by cases b; exacts [h5 h rfl, h5' h rfl]
  simp only [← BitVec.toNat_inj, BitVec.reduceToNat]
  omega

/-- The decoder names the first check that fails: each arm that rejects a word has tested the fields that make it fail. -/
theorem malformed_of_decode {w : BitVec 8} {m : Malformed} (h : decode w = .error m) :
    (cmdFields w).malformed = some m := by
  unfold decode at h
  split at h
  next hrsv =>
    cases h
    exact if_pos hrsv
  next hrsv =>
    split at h <;> cases h
    case h_5.refl | h_7.refl =>
      next hop hbank =>
        rw [cmdFields_eq (not_ne_iff.1 hrsv) hop, hbank]
        rfl
    case h_8.refl =>
      next h1 h2 h3 h4 h4' h5 h5' =>
        exact (if_neg hrsv).trans (if_pos (unknownOp_of_no_arm h1 h2 h3 h4 h4' h5 h5'))

/-! The bits of a hexadecimal operand (00_scope.md R16). -/

/-- Where every piece has `w` items, the first `w * k` items of the joined list are the first `k` pieces. -/
theorem take_flatMap_of_length {α β : Type} {f : α → List β} {w : Nat} (hf : ∀ a, (f a).length = w) :
    ∀ (k : Nat) (l : List α), (l.flatMap f).take (w * k) = (l.take k).flatMap f
  | 0, _ => by simp
  | _ + 1, [] => by simp
  | k + 1, a :: l => by
    rw [List.flatMap_cons, Nat.mul_succ, Nat.add_comm, ← hf a, List.take_length_add_append, hf a,
      take_flatMap_of_length hf k l, List.take_succ_cons, List.flatMap_cons]

/-- Where every piece has `w` items, what follows the first `w * k` items is what follows the first `k` pieces. -/
theorem drop_flatMap_of_length {α β : Type} {f : α → List β} {w : Nat} (hf : ∀ a, (f a).length = w) (k : Nat)
    (l : List α) : (l.flatMap f).drop (w * k) = (l.drop k).flatMap f := by
  have hsplit : l.flatMap f = (l.take k).flatMap f ++ (l.drop k).flatMap f := by
    rw [← List.flatMap_append, List.take_append_drop]
  refine List.append_cancel_left (as := (l.take k).flatMap f) ?_
  rw [← hsplit, ← take_flatMap_of_length hf, List.take_append_drop]

theorem length_bitsOfHex (digits : List (BitVec 4)) : (bitsOfHex digits).length = 4 * digits.length := by
  simp [bitsOfHex, List.length_flatMap, Nat.mul_comm]

/-- TDES.LOAD splits its key operand between two digits, 16 digits being 64 bits (30_encoding.md R80). -/
theorem assemble_tdesLoad (key : List (BitVec 4)) : assemble (.tdesLoad key) =
    [.key (key.take 16), .expand .bank0, .key (key.drop 16), .expand .bank1].flatMap assemble := by
  have htake : (bitsOfHex key).take 64 = bitsOfHex (key.take 16) := take_flatMap_of_length length_toBits 16 key
  have hdrop : (bitsOfHex key).drop 64 = bitsOfHex (key.drop 16) := drop_flatMap_of_length length_toBits 16 key
  rw [assemble, pseudoTdesLoad, htake, hdrop]
  rfl

/-! The statements about 30_encoding.md. -/

/-- Settles O1: a word is decoded to a command exactly when it is the command's word (`decode_eq_ok_iff`). -/
theorem decodeAndEncodeAgree : Obligations.DecodeAndEncodeAgree :=
  ⟨decode_encode, fun _ _ => decode_eq_ok_iff.1⟩

/-- Settles O3: each word is the word of its command, and the last one stops at the check of BANK. -/
theorem writtenOutWordsDecode : Obligations.WrittenOutWordsDecode :=
  ⟨decode_encode (.expand .bank0), decode_encode (.expand .bank1), decode_encode (.enc .bank0),
    decode_encode (.dec .bank1), decode_encode .tenc, decode_encode .tdec, rfl⟩

/-- Settles O4: a rejected word fails the check it is rejected by (`malformed_of_decode`), and the fields of a legal word are those
of a command, which fail none. -/
theorem rejectedWordsAreNamed : Obligations.RejectedWordsAreNamed := by
  refine fun w m => ⟨malformed_of_decode, fun h => ?_⟩
  cases hd : decode w with
  | ok i =>
    rw [cmdFields_of_decode hd, malformed_fields] at h
    cases h
  | error m' =>
    cases (malformed_of_decode hd).symm.trans h
    rfl

/-- Settles O56: the command words are those of `encode`, a pseudo-instruction is its lines by definition (TDES.LOAD by
`assemble_tdesLoad`), and every digit gives four bits of the operand. -/
theorem scriptLinesAreHostActions : Obligations.ScriptLinesAreHostActions := by
  refine ⟨fun b => ?_, rfl, rfl, fun key blk => ⟨rfl, rfl, rfl, rfl, assemble_tdesLoad key⟩,
    fun digits k j h1 h4 => ⟨length_bitsOfHex digits, ?_⟩⟩
  · cases b <;> exact ⟨rfl, rfl, rfl⟩
  · rw [bitsOfHex, show 4 * k.val + j - 1 = 4 * k.val + (j - 1) by omega,
      getElem?_flatMap_of_length length_toBits (by omega) digits k.val k.isLt, getElem?_toBits_pred _ h1 h4,
      bit_eq_getLsbD _ h1 h4]
    rfl

end Sys2Proof.Machine
end

section
/-! SUPPORT. The laws that the remaining statements about the cipher need (40_permute_bitvector.md, 42_round_function.md,
43_feistel_des.md): E bit by bit, and the complement of every bit, which each part of a pass keeps or, in F, cancels. Below them the
proofs of the statements. -/

namespace Sys2Proof.Machine

/-! E bit by bit, and exclusive-or (40_permute_bitvector.md R99, 42_round_function.md R126). -/

/-- E's entries, group by group (40_permute_bitvector.md R99). -/
theorem memRead_e {j i : Nat} (hj : 1 ≤ j) (hj8 : j ≤ 8) (h1 : 1 ≤ i) (h6 : i ≤ 6) :
    memRead tables.e (6 * (j - 1) + i) = (4 * j + i + 26) % 32 + 1 := by
  have hall : ∀ j ≤ 8, 1 ≤ j → ∀ i ≤ 6, 1 ≤ i → memRead tables.e (6 * (j - 1) + i) = (4 * j + i + 26) % 32 + 1 := by decide
  exact hall j hj8 hj i h6 h1

theorem bit_xor {w : Nat} (x y : BitVec w) (i : Nat) : bit (x ^^^ y) i = (bit x i != bit y i) := by
  simp [bit]

/-! Complements (95_test_vectors.md section 2): a table selects the complemented bits, and rotating, splitting and joining keep
them. -/

theorem bit_not {w : Nat} (x : BitVec w) {i : Nat} (h1 : 1 ≤ i) (hi : i ≤ w) : bit (~~~x) i = !bit x i := by
  have hlt : i - 1 < w := by omega
  simp [bit, hlt]

theorem eq_of_bit {w : Nat} {x y : BitVec w} (h : ∀ i, 1 ≤ i → i ≤ w → bit x i = bit y i) : x = y :=
  eq_of_getMsbD fun i hi => h (i + 1) (by omega) hi

theorem permute_not {n m : Nat} {t : List Nat} (ht : t.length = m ∧ ∀ v ∈ t, 1 ≤ v ∧ v ≤ n) (x : BitVec n) :
    permute m t (~~~x) = ~~~permute m t x := by
  obtain ⟨hlen, hrange⟩ := ht
  refine eq_of_bit fun i h1 hi => ?_
  obtain ⟨hlo, hhi⟩ := hrange _ (memRead_mem h1 (hlen ▸ hi))
  rw [bit_not _ h1 hi, bit_permute hlen _ h1 hi, bit_permute hlen _ h1 hi, bit_not x hlo hhi]

theorem rotl_not {n : Nat} (x : BitVec n) (k : Nat) : rotl (~~~x) k = ~~~rotl x k := by
  refine eq_of_bit fun i h1 hi => ?_
  have hlt : (i - 1 + k) % n < n := Nat.mod_lt _ (by omega)
  rw [bit_not _ h1 hi, bit_rotl _ k h1 hi, bit_rotl _ k h1 hi, bit_not x (by omega) hlt]

theorem split_not {h : Nat} (x : BitVec (h + h)) : split h (~~~x) = (~~~(split h x).1, ~~~(split h x).2) := by
  have hjoin : ~~~x = ~~~(split h x).1 ++ ~~~(split h x).2 := by rw [← BitVec.not_append, append_split]
  rw [hjoin, split_append]

section

variable {T : Tables} (hT : ShapesHold T)
include hT

theorem keyState_not (key : Key64) (n : Nat) :
    keyState T (~~~key) n = (~~~(keyState T key n).1, ~~~(keyState T key n).2) := by
  induction n with
  | zero =>
    rw [keyState, keyState, permute_not hT.pc1]
    exact split_not (h := 28) _
  | succ n ih => rw [keyState_succ, keyState_succ, ih, rotl_not, rotl_not]

theorem roundKey_not (key : Key64) (n : Nat) : roundKey T (~~~key) n = ~~~roundKey T key n := by
  rw [roundKey, roundKey, keyState_not hT, ← permute_not hT.pc2, BitVec.not_append]

/-- In both directions a round finds the complemented subkey. -/
theorem selectKey_not (key : Key64) (dir : Dir) {n : Nat} (h1 : 1 ≤ n) (h16 : n ≤ 16) :
    selectKey (expand T (~~~key)) dir n = ~~~selectKey (expand T key) dir n := by
  cases dir with
  | enc => rw [selectKey, selectKey, subkeyAt_expand T _ h1 h16, subkeyAt_expand T _ h1 h16, roundKey_not hT]
  | dec =>
    rw [selectKey, selectKey, subkeyAt_expand T _ (by omega) (by omega), subkeyAt_expand T _ (by omega) (by omega),
      roundKey_not hT]

/-- F sees no complement: those of the half and of the subkey cancel. -/
theorem roundF_not (r : Half) (k : Subkey) : roundF T (~~~r) (~~~k) = roundF T r k := by
  rw [roundF, roundF, permute_not hT.e, ← BitVec.not_xor_left, ← BitVec.not_xor_right, BitVec.not_not]

theorem feistelRound_not (k : Subkey) (l r : Half) :
    feistelRound T (~~~k) (~~~l, ~~~r) = (~~~(feistelRound T k (l, r)).1, ~~~(feistelRound T k (l, r)).2) := by
  simp only [feistelRound, roundF_not hT, BitVec.not_xor_left]

theorem feistel_not (key : Key64) (dir : Dir) (l r : Half) : ∀ n ≤ 16,
    feistel T (expand T (~~~key)) dir (~~~l, ~~~r) n =
      (~~~(feistel T (expand T key) dir (l, r) n).1, ~~~(feistel T (expand T key) dir (l, r) n).2) := by
  intro n
  induction n with
  | zero => intro _; rfl
  | succ n ih =>
    intro hn
    rw [feistel, feistel, ih (by omega), selectKey_not hT key dir (by omega) hn, feistelRound_not hT]

/-- The complementation property holds under every table record that passes the shape check. -/
theorem desPass_not (block : Block) (key : Key64) (dir : Dir) :
    desPass T (~~~block) (expand T (~~~key)) dir = ~~~desPass T block (expand T key) dir := by
  have hsplit : split 32 (permute 64 T.ip (~~~block)) =
      (~~~(split 32 (permute 64 T.ip block)).1, ~~~(split 32 (permute 64 T.ip block)).2) := by
    rw [permute_not hT.ip]
    exact split_not (h := 32) _
  rw [desPass, desPass, hsplit, feistel_not hT key dir _ _ 16 le_rfl, ← permute_not hT.ipinv, BitVec.not_append]

end

/-! The phases of the sequencer (10_state.md R33). -/

theorem enter_seq (T : Tables) (t : Transition) (s : State) : (enter T t s).seq = t.phase := by cases t <;> rfl

/-! The statements about the cipher. -/

/-- Settles O24: each of the two tables read through the other is the identity table. -/
theorem finalPermutationInvertsInitial : Obligations.FinalPermutationInvertsInitial :=
  fun x => ⟨permute_ipinv_ip x, permute_ip_ipinv x⟩

/-- Settles O25: the bit of the result is the bit that E names, and E names them in this order (`memRead_e`). -/
theorem expansionOverlapsCyclically : Obligations.ExpansionOverlapsCyclically := by
  intro r j i hj hj8 h1 h6
  rw [bit_permute length_e r (by omega) (by omega), memRead_e hj hj8 h1 h6]

/-- Settles O34: P selects from the S-box outputs, E from the half, and the subkey is mixed in bit by bit. -/
theorem roundFunctionBitByBit : Obligations.RoundFunctionBitByBit := by
  refine fun r k => ⟨fun i h1 h32 => bit_permute length_p _ h1 h32, fun i h1 h48 => ?_⟩
  rw [bit_xor, bit_permute length_e r h1 h48]

/-- Settles O42: the tables pass the shape check, and under every such record the complements of the half and of the subkey cancel
in F, and every other part of a pass hands a complement on (`desPass_not`). -/
theorem complementationProperty : Obligations.ComplementationProperty :=
  fun block key dir => desPass_not ((shapesOk_iff tables).1 shapesOk_tables) block key dir

/-- Settles O37: each transition writes its own phase (`enter_seq`), and the paths are lists of transitions written out. -/
theorem phasesFollowTheFixedPath : Obligations.PhasesFollowTheFixedPath :=
  ⟨enter_seq, fun _ _ _ _ => ⟨rfl, rfl⟩, fun _ _ => rfl⟩

end Sys2Proof.Machine
end
